-- ==== Sys2Proof/Word.lean ====
section
/-! DEFINITION. The word types of the FK1232 and the ranges of its numbered things (00_scope.md, Table 4-1). -/

namespace Sys2Proof

/-- A byte of a module message or of an outbox record. -/
abbrev Byte := BitVec 8

/-- A register of the SPI window: 16 bits (R163). -/
abbrev Word := BitVec 16

/-- Slot numbers 0 to 11. -/
abbrev Slot := Fin 12

/-- Entry indices 0 to 31. -/
abbrev Idx := Fin 32

/-- Contract classes 0 (lowest) to 3 (highest). -/
abbrev Class := Fin 4

/-- A module's own labels of its contracts, 0 to 15. -/
abbrev Tag := Fin 16

/-- Supply bands 0 to 3. -/
abbrev Band := Fin 4

/-- All slots, ascending. -/
def allSlots : List Slot := List.finRange 12

/-- All entry indices, ascending. -/
def allIdx : List Idx := List.finRange 32

end Sys2Proof
end

