-- ==== Sys2Proof/Config.lean ====
section
/-! DEFINITION. The names of the configuration items of Table 10-3 (register order) and the free value of the model. -/

namespace Sys2Proof

/-- The 21 configuration items, in the register order of Table 10-3. -/
inductive Item where
  | t1 | t2 | t3 | cap1 | cap2 | cap3 | ceiling
  | riseq | fallq | holdlim | offerw | redgrace | revgrace | deliv | leasewarn
  | inrush | blank | faultq | cooldown | triplim | stable
  deriving DecidableEq, Repr

/-- FREE VALUE, no body. Which of several events that are due at one instant of the Time Base is taken next: the spec
gives the outcome of either order and fixes none (R11, R133, R135, R142, R152). It is applied to the counter
`State.ties` and read modulo the number of events due. Notes: assumption 2. -/
opaque Config.tieBreak : Nat → Nat

/-- FREE VALUE, no body. The level of SDO (none is high impedance) while CSn is low in a frame whose CSn fall came before the
end of device reset: the port does not take that frame, and the spec states no level for it (R177). It is applied to the
instant and to the count of SCK changes that `Frame.missed` holds. Notes: assumption 23. -/
opaque Config.untakenSdo : Nat → Nat → Option Bool

end Sys2Proof
end

