-- ==== Sys2Proof/Syntax.lean ====
section
/-! DEFINITION. The commands of the block: one constructor for each row of spec/opcode_table.json. -/

namespace Sys2Proof

/-- How a transaction on the module bus ends (R118): with a STOP, or with a repeated START that begins the next one. -/
inductive BusEnd where
  | stop
  | restart
  deriving DecidableEq, Repr

/-- Why a write that ended is discarded (R119). -/
inductive Discard where
  /-- no data byte was received -/
  | noData
  /-- more than 16 data bytes were received -/
  | overrun
  /-- a START or STOP fell inside a byte -/
  | incomplete
  deriving DecidableEq, Repr

/-- The addresses whose reads are acknowledged (Table 7-1). -/
inductive ReadAddr where
  | slot (n : Slot)
  | summary
  deriving DecidableEq, Repr

/-- The commands. A message row carries the slot of the address written to, the bytes received after the kind byte (the
row fixes the kind byte), the check byte last among them, and how the write ended. A host command finds its arguments
in ARG0 and ARG1 (R169). -/
inductive Instr where
  /-- CLAIM (R25) -/
  | claim (n : Slot) (body : List Byte) (e : BusEnd)
  /-- CONFIRM (R41) -/
  | confirm (n : Slot) (body : List Byte) (e : BusEnd)
  /-- ADJUST (R85) -/
  | adjust (n : Slot) (body : List Byte) (e : BusEnd)
  /-- COMPLY (R70) -/
  | comply (n : Slot) (body : List Byte) (e : BusEnd)
  /-- RENEW (R95) -/
  | renew (n : Slot) (body : List Byte) (e : BusEnd)
  /-- RELEASE (R97) -/
  | release (n : Slot) (body : List Byte) (e : BusEnd)
  /-- QUERY (R21) -/
  | query (n : Slot) (body : List Byte) (e : BusEnd)
  /-- REFUSED_MESSAGE (R124): all the bytes received -/
  | refusedMessage (n : Slot) (msg : List Byte) (e : BusEnd)
  /-- WRITE_DISCARDED (R119) -/
  | writeDiscarded (n : Slot) (why : Discard) (e : BusEnd)
  /-- READ_STAGING (R125) -/
  | readStaging (a : ReadAddr)
  /-- READ_END (R127): the acknowledgement bits of the bytes the controller clocks (true: acknowledged), and the end -/
  | readEnd (acks : List Bool) (e : BusEnd)
  /-- STALL_TIMER_EXPIRY (R128): the tick at which the timer whose expiry this is expires (assumption 8) -/
  | stallTimerExpiry (tick : Nat)
  /-- RAIL_SAMPLE (R131): the code converted -/
  | railSample (code : BitVec 10)
  /-- QUALIFICATION_TIMER_EXPIRY (R133) -/
  | qualificationTimerExpiry
  /-- HOLD_TIMER_EXPIRY (R135) -/
  | holdTimerExpiry
  /-- PRESENCE_SAMPLE (R146): the level of PRS[n] -/
  | presenceSample (n : Slot) (high : Bool)
  /-- PRESENCE_TIMER_EXPIRY (R146) -/
  | presenceTimerExpiry (n : Slot)
  /-- FAULT_SAMPLE (R154): the level of FLT[n] -/
  | faultSample (n : Slot) (high : Bool)
  /-- BLANKING_TIMER_EXPIRY (R154) -/
  | blankingTimerExpiry (n : Slot)
  /-- TRIP (R155): the expiry of the fault timer -/
  | trip (n : Slot)
  /-- COOLDOWN_EXPIRY (R156) -/
  | cooldownExpiry (n : Slot)
  /-- STABLE_TIMER_EXPIRY (R156) -/
  | stableTimerExpiry (n : Slot)
  /-- TURN_ON (R153) -/
  | turnOn
  /-- OFFER_WINDOW_EXPIRY (R40) -/
  | offerWindowExpiry (i : Idx)
  /-- REDUCE_GRACE_EXPIRY (R71) -/
  | reduceGraceExpiry (i : Idx)
  /-- REVOKE_GRACE_EXPIRY (R77) -/
  | revokeGraceExpiry (i : Idx)
  /-- LEASE_EXPIRY (R93, R94) -/
  | leaseExpiry (i : Idx)
  /-- WARNING_POINT (R92) -/
  | warningPoint (i : Idx)
  /-- DELIVERY_LIMIT_EXPIRY (R112) -/
  | deliveryLimitExpiry (i : Idx)
  /-- LOOKUP (R170) -/
  | lookup
  /-- FIND (R171) -/
  | find
  /-- RETIRE (R172) -/
  | retire
  /-- PURGE (R173) -/
  | purge
  /-- BLOCK (R160) -/
  | block
  /-- UNBLOCK (R161) -/
  | unblock
  /-- CLEAR_TRIPS (R161) -/
  | clearTrips
  /-- APPLY (R168) -/
  | apply
  /-- UNKNOWN_COMMAND (R169): the low byte written to CMD -/
  | unknownCommand (code : Byte)
  /-- EVENTS_WRITE (R175) -/
  | eventsWrite (v : Word)
  /-- EVMASK_WRITE (R176) -/
  | evmaskWrite (v : Word)
  /-- REGISTER_WRITE (R164) -/
  | registerWrite (r : BitVec 7) (v : Word)
  /-- DEVICE_RESET (R22): the strap levels latched at its end (R116) -/
  | deviceReset (k : BitVec 3)
  deriving DecidableEq, Repr

end Sys2Proof
end

