-- ==== Sys2Proof/Machine/Names.lean ====
section
/-! DEFINITION. The named states, kinds, statuses, causes and events of the spec (Tables 1-3a, 7-4 to 7-10, 9-2, 10-5). -/

namespace Sys2Proof.Machine

/-- The nine entry states (R2). -/
inductive EntryState where
  | free | waiting | offered | enabling | active | reduced | reducing | revoking | retired
  deriving DecidableEq, Repr

/-- The four supply states (R134). -/
inductive Supply where
  | unqualified | operating | hold | lost
  deriving DecidableEq, Repr

/-- The seven slot states (R145). -/
inductive SlotState where
  | empty | idle | queued | on | suspended | tripped | blocked
  deriving DecidableEq, Repr

/-- Why a contract is being or was taken away (Table 7-10). -/
inductive Cause where
  | lapsed | shed | lease | host | fault | enforced | supply | blocked
  deriving DecidableEq, Repr

/-- The status of a reply (Table 7-9). -/
inductive Status where
  | accepted | checkError | unknownKind | lengthError | badValue | notSeated | slotBlocked | slotTripped | tableFull
  | slotFull | queueFull | duplicateTag | staleHandle | foreignHandle | wrongState | levelMismatch | noHeadroom | noSuchTag
  deriving DecidableEq, Repr

/-- The request kinds (R121). -/
inductive Kind where
  | claim | confirm | adjust | comply | renew | release | query
  deriving DecidableEq, Repr

/-- The notice kinds (Table 6-2). -/
inductive NoticeKind where
  | offer | recall | reduce | restore | revoke | closed | leaseWarn
  deriving DecidableEq, Repr

/-- The event flags (Table 10-5). -/
inductive Event where
  | supplyChange | bandChange | deficitBegin | deficitEnd | slotTrip | slotBlock | slotCut | noticeDrop | seatChange | busStall
  deriving DecidableEq, Repr

/-- The result codes of host commands (R169). -/
inductive Result where
  | none | ok | invalid | notFound | badArg
  deriving DecidableEq, Repr

/-- What an address byte that the interface acknowledges asks for (Table 7-1). -/
inductive Access where
  | write (n : Slot)
  | read (a : ReadAddr)
  deriving DecidableEq, Repr

/-- The fields of a CLAIM message (Table 7-4). -/
structure ClaimFields where
  tag : Tag
  cls : Class
  requested : Nat
  floor : Nat
  lease : Nat
  deriving DecidableEq, Repr

end Sys2Proof.Machine
end

