-- ==== Sys2Proof/Machine/Operands.lean ====
section
/-! DEFINITION. Operand forms: the codes of Tables 7-4 to 7-10 and 10-3, the CRC-8 of R121, the fields of messages with
their ranges, and the configuration items with their register ranges, defaults and units. -/

namespace Sys2Proof.Machine

/-! ## Bytes and words -/

/-- The low byte of a 16-bit field. -/
def loByte (n : Nat) : Byte := BitVec.ofNat 8 n

/-- The high byte of a 16-bit field; fields are sent most significant byte first (00_scope.md 4.3). -/
def hiByte (n : Nat) : Byte := BitVec.ofNat 8 (n / 256)

/-- A two-byte field, most significant byte first (00_scope.md 4.3). -/
def wordOf (h l : Byte) : Nat := h.toNat * 256 + l.toNat

/-- The number that bits taken one after another stand for, most significant bit first (R118, R163). -/
def bitsValue (bits : List Bool) : Nat := bits.foldl (fun v b => 2 * v + b.toNat) 0

/-- The byte of eight bits. -/
def byteOf (bits : List Bool) : Byte := BitVec.ofNat 8 (bitsValue bits)

/-- Byte k of a message; 0 beyond its end. -/
def byteAt (msg : List Byte) (k : Nat) : Byte := msg.getD k 0

/-! ## The check (R121) -/

/-- One bit of the CRC-8 with polynomial x^8+x^2+x+1, most significant bit first. -/
def crcBit (c : Byte) : Byte := if c.msb then (c <<< 1) ^^^ 0x07#8 else c <<< 1

/-- One byte of the CRC-8: the byte is added and eight bits are shifted. -/
def crcByte (c b : Byte) : Byte :=
  crcBit (crcBit (crcBit (crcBit (crcBit (crcBit (crcBit (crcBit (c ^^^ b))))))))

/-- The CRC-8 of R121: initial value 0xFF, no reflection, no final XOR. -/
def crc8 (bytes : List Byte) : Byte := bytes.foldl crcByte 0xFF#8

/-- The address byte of a slot's write: the 7-bit address 16·k + n followed by the bit 0 (R116). -/
def writeAddr (k : BitVec 3) (n : Slot) : Byte := BitVec.ofNat 8 (2 * (16 * k.toNat + n.val))

/-- The address byte of a read: the 7-bit address followed by the bit 1; the summary stands at base + 12 (R116). -/
def readAddr (k : BitVec 3) : ReadAddr → Byte
  | .slot n => BitVec.ofNat 8 (2 * (16 * k.toNat + n.val) + 1)
  | .summary => BitVec.ofNat 8 (2 * (16 * k.toNat + 12) + 1)

/-- The straps give a valid window: k lies in 1 to 6 (R116, R117). -/
def validStraps (k : BitVec 3) : Bool := decide (1 ≤ k.toNat ∧ k.toNat ≤ 6)

/-- What an address byte asks for with the straps at k, none where the interface does not acknowledge it (Table 7-1, R117). -/
def addressed (k : BitVec 3) (b : Byte) : Option Access :=
  let place := b.toNat / 2 - 16 * k.toNat
  if !validStraps k || decide (b.toNat / 2 < 16 * k.toNat) then none
  else if h : place < 12 then
    some (if b.getLsbD 0 then .read (.slot ⟨place, h⟩) else .write ⟨place, h⟩)
  else if place = 12 ∧ b.getLsbD 0 = true then some (.read .summary)
  else none

/-- The last byte of the message equals the check of the address byte and every earlier byte (R121, step 1). -/
def checkOk (k : BitVec 3) (n : Slot) (msg : List Byte) : Bool :=
  msg.getLast? == some (crc8 (writeAddr k n :: msg.dropLast))

/-! ## Codes -/

/-- Request kind bytes (R121). -/
def kindByte : Kind → Byte
  | .claim => 0x01 | .confirm => 0x02 | .adjust => 0x03 | .comply => 0x04 | .renew => 0x05 | .release => 0x06 | .query => 0x07

/-- The request kind a first byte names, if it is one (R121, step 2). -/
def kindOf (b : Byte) : Option Kind :=
  if b = 0x01 then some .claim else if b = 0x02 then some .confirm else if b = 0x03 then some .adjust
  else if b = 0x04 then some .comply else if b = 0x05 then some .renew else if b = 0x06 then some .release
  else if b = 0x07 then some .query else none

/-- Message lengths, kind and check included (Table 7-4). -/
def kindLength : Kind → Nat
  | .claim => 10 | .confirm => 4 | .adjust => 8 | .comply => 6 | .renew => 4 | .release => 4 | .query => 3

/-- Entry state codes (Table 7-8). -/
def entryStateCode : EntryState → Nat
  | .free => 0 | .waiting => 1 | .offered => 2 | .enabling => 3 | .active => 4 | .reduced => 5 | .reducing => 6
  | .revoking => 7 | .retired => 8

/-- Supply state codes (Table 7-8). -/
def supplyCode : Supply → Nat
  | .unqualified => 0 | .operating => 1 | .hold => 2 | .lost => 3

/-- Slot state codes (Table 10-2). -/
def slotStateCode : SlotState → Nat
  | .empty => 0 | .idle => 1 | .queued => 2 | .on => 3 | .suspended => 4 | .tripped => 5 | .blocked => 6

/-- Status codes (Table 7-9). -/
def statusCode : Status → Nat
  | .accepted => 0x00 | .checkError => 0x01 | .unknownKind => 0x02 | .lengthError => 0x03 | .badValue => 0x04
  | .notSeated => 0x05 | .slotBlocked => 0x06 | .slotTripped => 0x07 | .tableFull => 0x08 | .slotFull => 0x09
  | .queueFull => 0x0A | .duplicateTag => 0x0B | .staleHandle => 0x0C | .foreignHandle => 0x0D | .wrongState => 0x0E
  | .levelMismatch => 0x0F | .noHeadroom => 0x10 | .noSuchTag => 0x11

/-- Cause codes (Table 7-10). -/
def causeCode : Cause → Nat
  | .lapsed => 1 | .shed => 2 | .lease => 3 | .host => 4 | .fault => 5 | .enforced => 6 | .supply => 7 | .blocked => 8

/-- The cause code of a record: 0 where there is no cause (R2, R130). -/
def causeCodeOf : Option Cause → Nat
  | none => 0
  | some c => causeCode c

/-- Record kind codes of notices (Table 7-7). -/
def noticeCode : NoticeKind → Nat
  | .offer => 0x20 | .recall => 0x21 | .reduce => 0x22 | .restore => 0x23 | .revoke => 0x24 | .closed => 0x25
  | .leaseWarn => 0x26

/-- Bit numbers of the event flags (Table 10-5). -/
def eventBit : Event → Nat
  | .supplyChange => 0 | .bandChange => 1 | .deficitBegin => 2 | .deficitEnd => 3 | .slotTrip => 4 | .slotBlock => 5
  | .slotCut => 6 | .noticeDrop => 7 | .seatChange => 8 | .busStall => 9

/-- Result codes (R169). -/
def resultCode : Result → Nat
  | .none => 0x00 | .ok => 0x01 | .invalid => 0x02 | .notFound => 0x03 | .badArg => 0x04

/-! ## Message fields (Table 7-4) and their ranges (Table 7-5) -/

/-- The fields of a CLAIM. -/
def claimFields (msg : List Byte) : ClaimFields :=
  { tag := Fin.ofNat 16 (byteAt msg 1).toNat
    cls := Fin.ofNat 4 (byteAt msg 2).toNat
    requested := wordOf (byteAt msg 3) (byteAt msg 4)
    floor := wordOf (byteAt msg 5) (byteAt msg 6)
    lease := wordOf (byteAt msg 7) (byteAt msg 8) }

/-- The requested level of an ADJUST. -/
def adjustRequested (msg : List Byte) : Nat := wordOf (byteAt msg 3) (byteAt msg 4)

/-- The floor of an ADJUST. -/
def adjustFloor (msg : List Byte) : Nat := wordOf (byteAt msg 5) (byteAt msg 6)

/-- The level of a COMPLY. -/
def complyLevel (msg : List Byte) : Nat := wordOf (byteAt msg 3) (byteAt msg 4)

/-- The tag of a QUERY. -/
def queryTag (msg : List Byte) : Tag := Fin.ofNat 16 (byteAt msg 1).toNat

/-- The levels of a CLAIM or ADJUST lie in their ranges: requested 1 to 1023, floor 1 to requested. -/
def levelsInRange (requested floor : Nat) : Bool :=
  decide (1 ≤ requested ∧ requested ≤ 1023 ∧ 1 ≤ floor ∧ floor ≤ requested)

/-- Step 4 of the request validation order (R122). -/
def fieldsInRange (k : Kind) (msg : List Byte) : Bool :=
  match k with
  | .claim =>
    decide ((byteAt msg 1).toNat ≤ 15) && decide ((byteAt msg 2).toNat ≤ 3)
      && levelsInRange (claimFields msg).requested (claimFields msg).floor
  | .confirm => true
  | .adjust => levelsInRange (adjustRequested msg) (adjustFloor msg)
  | .comply => decide (1 ≤ complyLevel msg ∧ complyLevel msg ≤ 1023)
  | .renew => true
  | .release => true
  | .query => decide ((byteAt msg 1).toNat ≤ 15)

/-- The kinds that carry a handle (R13). -/
def carriesHandle : Kind → Bool
  | .claim => false | .confirm => true | .adjust => true | .comply => true | .renew => true | .release => true
  | .query => false

/-! ## Configuration items (Table 10-3) -/

/-- The item's place in the register order. -/
def itemIndex : Item → Fin 21
  | .t1 => 0 | .t2 => 1 | .t3 => 2 | .cap1 => 3 | .cap2 => 4 | .cap3 => 5 | .ceiling => 6 | .riseq => 7 | .fallq => 8
  | .holdlim => 9 | .offerw => 10 | .redgrace => 11 | .revgrace => 12 | .deliv => 13 | .leasewarn => 14 | .inrush => 15
  | .blank => 16 | .faultq => 17 | .cooldown => 18 | .triplim => 19 | .stable => 20

/-- The items in register order, 0x40 to 0x54. -/
def allItems : List Item :=
  [.t1, .t2, .t3, .cap1, .cap2, .cap3, .ceiling, .riseq, .fallq, .holdlim, .offerw, .redgrace, .revgrace, .deliv,
   .leasewarn, .inrush, .blank, .faultq, .cooldown, .triplim, .stable]

/-- The least register value of an item's range. -/
def itemMin : Item → Nat
  | .t1 | .t2 | .t3 | .cap1 | .cap2 | .cap3 | .ceiling | .blank => 0
  | .riseq | .fallq | .holdlim | .offerw | .redgrace | .revgrace | .deliv | .leasewarn | .inrush | .faultq | .cooldown
  | .triplim | .stable => 1

/-- The greatest register value of an item's range. -/
def itemMax : Item → Nat
  | .t1 | .t2 | .t3 => 1023
  | .cap1 | .cap2 | .cap3 | .ceiling => 4095
  | .riseq | .fallq | .holdlim | .offerw | .redgrace | .revgrace | .deliv | .leasewarn | .inrush | .blank | .cooldown
  | .stable => 255
  | .faultq | .triplim => 15

/-- The default register values (Table 10-3). -/
def itemDefault : Item → Word
  | .t1 => 512 | .t2 => 640 | .t3 => 768 | .cap1 => 0 | .cap2 => 0 | .cap3 => 0 | .ceiling => 4095 | .riseq => 50
  | .fallq => 2 | .holdlim => 20 | .offerw => 50 | .redgrace => 20 | .revgrace => 100 | .deliv => 30 | .leasewarn => 10
  | .inrush => 20 | .blank => 5 | .faultq => 2 | .cooldown => 10 | .triplim => 3 | .stable => 30

/-- How many milliseconds one unit of the register is, for the items that are durations of timers and windows counted in
milliseconds; 1 for the others, whose value is the quantity itself (LEASEWARN counts whole seconds of the lease). -/
def itemUnit : Item → Nat
  | .riseq | .offerw | .redgrace | .revgrace => 10
  | .holdlim | .cooldown => 100
  | .deliv | .stable => 1000
  | .t1 | .t2 | .t3 | .cap1 | .cap2 | .cap3 | .ceiling | .fallq | .leasewarn | .inrush | .blank | .faultq | .triplim => 1

end Sys2Proof.Machine
end

