-- ==== Sys2Proof/Decode.lean ====
section
/-! DEFINITION. Which command a transfer on one of the part's two ports is: an SPI frame (R163, R164, R169) and a write
transaction of the module bus (R119 to R121). spec/opcode_table.json gives no row any bits, so no table word spells a
command. -/

namespace Sys2Proof

/-- The command a word spells by the table's bits: the table gives no row bits, so none. -/
def decodeTableWord (_nbits _w : Nat) : Option Instr := none

/-- The host command of a code (R169). -/
def hostCommand (code : Byte) : Instr :=
  if code = 0x01 then .lookup else if code = 0x02 then .find else if code = 0x03 then .retire
  else if code = 0x04 then .purge else if code = 0x05 then .block else if code = 0x06 then .unblock
  else if code = 0x07 then .clearTrips else if code = 0x08 then .apply else .unknownCommand code

/-- The command of a write frame to a register number (R164): the low byte written to CMD is the code (R169). -/
def writeFrame (r : BitVec 7) (v : Word) : Instr :=
  if r = 0x07 then .eventsWrite v else if r = 0x08 then .evmaskWrite v
  else if r = 0x09 then hostCommand (v.setWidth 8) else .registerWrite r v

/-- The command of an SPI frame of `clocked` bits with the given command byte and data (R163): only a write frame of exactly
24 bits is taken; a read frame changes no state. -/
def spiCommand (clocked : Nat) (command : Byte) (data : Word) : Option Instr :=
  if clocked = 24 ∧ command.msb = false then some (writeFrame (command.setWidth 7) data) else none

/-- The command of a message of kind k with the bytes after the kind byte. -/
def kindCommand (k : Machine.Kind) (n : Slot) (body : List Byte) (e : BusEnd) : Instr :=
  match k with
  | .claim => .claim n body e
  | .confirm => .confirm n body e
  | .adjust => .adjust n body e
  | .comply => .comply n body e
  | .renew => .renew n body e
  | .release => .release n body e
  | .query => .query n body e

/-- The command of a write to slot n that has ended, with the window at strap value k: the data bytes received, whether the
end fell inside a further byte, and how it ended (R119 to R121). -/
def busCommand (k : BitVec 3) (n : Slot) (bytes : List Byte) (inside : Bool) (e : BusEnd) : Instr :=
  if 16 < bytes.length then .writeDiscarded n .overrun e
  else if inside then .writeDiscarded n .incomplete e
  else match bytes with
    | [] => .writeDiscarded n .noData e
    | b :: body =>
      match Machine.kindOf b with
      | none => .refusedMessage n (b :: body) e
      | some kind =>
        if Machine.checkOk k n (b :: body) then kindCommand kind n body e else .refusedMessage n (b :: body) e

end Sys2Proof
end

