-- ==== Sys2Proof/Machine/State.lean ====
section
/-! DEFINITION. The state of the block, the reasons a step can stop, and the state after device reset.
Instants of timers are ticks of the 1 ms Time Base (R1); `none` is a stopped timer. See notes/assumptions 1, 9, 10, 12, 20, 21. -/

namespace Sys2Proof.Machine

/-- A running lease period (R91): the tick it started from, the warning point fixed at its start, the warned mark. -/
structure LeasePeriod where
  start : Nat
  warnPoint : Nat
  warned : Bool
  deriving DecidableEq, Repr

/-- An entry of the Contract Table (R2, Table 1-1). A field absent in the entry's state is 0 or none. -/
structure Entry where
  /-- count of the times the entry has become FREE, modulo 256 (R12) -/
  gen : BitVec 8
  state : EntryState
  slot : Slot
  tag : Tag
  cls : Class
  requested : Nat
  floor : Nat
  /-- the level the budget counts for the entry (R4) -/
  held : Nat
  /-- the level a REDUCE notice asks for, present in REDUCING (R5) -/
  target : Option Nat
  /-- lease duration in seconds, 0 for a standing contract -/
  lease : Nat
  /-- the running lease count (R6, R91) -/
  period : Option LeasePeriod
  cause : Option Cause
  /-- the tick at which the entry's running timer expires (R6) -/
  deadline : Option Nat
  deriving DecidableEq, Repr

/-- A FREE entry with generation 0, as device reset leaves it (R22). -/
def blankEntry : Entry :=
  { gen := 0, state := .free, slot := 0, tag := 0, cls := 0, requested := 0, floor := 0, held := 0, target := none,
    lease := 0, period := none, cause := none, deadline := none }

/-- A reply in a reply buffer (R101, Table 7-6). `named` is none for a reply that names no entry (R124). -/
structure Reply where
  /-- the identity of this item (assumption 9) -/
  id : Nat
  /-- the first message byte as received -/
  kind : Byte
  status : Status
  /-- an undelivered reply was displaced by this one -/
  overwritten : Bool
  named : Option Idx
  gen : BitVec 8
  state : EntryState
  held : Nat
  extra : Nat
  deriving DecidableEq, Repr

/-- A notice in a notice queue: the fields fixed when it is queued (R106). -/
structure Notice where
  /-- the identity of this item (assumption 9) -/
  id : Nat
  kind : NoticeKind
  index : Idx
  gen : BitVec 8
  tag : Tag
  level : Nat
  deriving DecidableEq, Repr

/-- A slot's outbox (R100): reply buffer and notice queue, oldest first. -/
structure Outbox where
  reply : Option Reply
  notices : List Notice
  deriving DecidableEq, Repr

/-- The empty outbox (R100). -/
def emptyOutbox : Outbox := { reply := none, notices := [] }

/-- The outbox item a staged record came from (R108, R125). -/
inductive StagedItem where
  /-- an IDLE or SUMMARY record: nothing of an outbox -/
  | nothing
  | reply (n : Slot) (id : Nat)
  | notice (n : Slot) (id : Nat)
  deriving DecidableEq, Repr

/-- The state of the Module Bus Interface (R118, Table 7-2) with its receive buffer, or with its staged record, the number of
record bytes transferred, and whether the controller has acknowledged every byte so far (R126). -/
inductive Bus where
  | idle
  | address
  | receive (n : Slot) (buffer : List Byte)
  | overrun (n : Slot)
  | send (record : List Byte) (item : StagedItem) (sent : Nat) (answered : Bool)
  | passive
  deriving DecidableEq, Repr

/-- The levels of the input pins of the two ports: SCL and CSn, SCK and SDI as they are driven, and SDA as every other partner
on the bus leaves it. -/
structure Pins where
  scl : Bool
  sda : Bool
  csn : Bool
  sck : Bool
  sdi : Bool
  deriving DecidableEq, Repr

/-- The levels of two ports at rest (assumption 21). -/
def idlePins : Pins := { scl := true, sda := true, csn := true, sck := false, sdi := false }

/-- One change of one of those pins, to the level given (assumption 20). -/
inductive Wire where
  | scl (high : Bool)
  | sda (high : Bool)
  | csn (high : Bool)
  | sck (high : Bool)
  | sdi (high : Bool)
  /-- RSTn falls -/
  | rstnLow
  /-- RSTn rises, with the levels of the straps -/
  | rstnHigh (straps : BitVec 3)
  deriving DecidableEq, Repr

/-- The SPI frame in progress (R163, R177). -/
inductive Frame where
  /-- CSn is high, or RSTn is held low -/
  | closed
  /-- CSn has been low since before the end of device reset; the changes of SCK seen since are counted for the free value -/
  | missed (edges : Nat)
  /-- fewer than eight bits sampled: those bits -/
  | command (bits : List Bool)
  /-- the command byte, the value captured at its eighth bit, and the bits sampled after it -/
  | data (command : Byte) (captured : Word) (bits : List Bool)
  deriving DecidableEq, Repr

/-- A slot's record (Table 9-1). -/
structure SlotRec where
  state : SlotState
  /-- presence qualified as present -/
  seated : Bool
  presence : Option Nat
  /-- the level driven on SWEN[n] -/
  switch : Bool
  /-- class key, present while QUEUED -/
  key : Option Class
  blanking : Option Nat
  fault : Option Nat
  stable : Option Nat
  cooldown : Option Nat
  trips : Nat
  deriving DecidableEq, Repr

/-- A slot record after device reset (R144). -/
def emptySlot : SlotRec :=
  { state := .empty, seated := false, presence := none, switch := false, key := none, blanking := none, fault := none,
    stable := none, cooldown := none, trips := 0 }

/-- The defaults of the 21 configuration items (Table 10-3). -/
def defaultConfig : Vector Word 21 := ⟨⟨allItems.map itemDefault⟩, rfl⟩

/-- The state of the FK1232. -/
structure State where
  /-- the commands waiting, first in, first out -/
  pending : List Instr
  /-- the present instant: 2·t is the tick t of the Time Base, 2·t + 1 the open interval after it (assumption 1) -/
  now : Nat
  /-- the model's counter that the free order of simultaneous events is applied to (assumption 2) -/
  ties : Nat
  -- Contract Table
  table : Vector Entry 32
  waitQueue : List Idx
  admission : List Idx
  -- Budget Account
  capacity : Nat
  deficit : Bool
  -- Notice Unit
  outboxes : Vector Outbox 12
  /-- the model's counter that gives each outbox item its identity (assumption 9) -/
  nextItem : Nat
  -- Module Bus Interface
  /-- the strap value k latched at device reset (R116) -/
  straps : BitVec 3
  bus : Bus
  /-- the bits taken of the byte in progress, eight while its acknowledgement clock is awaited (R118) -/
  bits : List Bool
  /-- the level of SDA sampled at the rise of SCL, while that clock is high (R118; assumption 22) -/
  clock : Option Bool
  /-- the stall timer (R128) -/
  stallTimer : Option Nat
  -- Supply Monitor
  railCode : BitVec 10
  sampled : Band
  qualified : Option Band
  candidate : Option Band
  qualTimer : Option Nat
  supply : Supply
  holdTimer : Option Nat
  -- Slot Power Control
  slots : Vector SlotRec 12
  inrush : List Slot
  /-- the tick of the last turn-on (R152) -/
  lastOn : Option Nat
  -- Board Controller Port
  staged : Vector Word 21
  active : Vector Word 21
  events : BitVec 10
  evmask : BitVec 10
  /-- the code of the last command taken (R169) -/
  cmd : BitVec 8
  arg0 : Word
  arg1 : Word
  /-- RESULT: result code in the high byte, result value in the low byte (R169) -/
  result : Word
  /-- SNAP0 to SNAP7 -/
  snap : Vector Word 8
  frame : Frame
  /-- RSTn is held low (R22) -/
  inReset : Bool
  -- The pins of the two ports
  pins : Pins
  /-- the pin changes waiting, first in, first out (assumption 20) -/
  wires : List Wire
  deriving DecidableEq, Repr

/-- The conditions on which the machine stops: the manual describes none, so there is no constructor. -/
inductive Fault where
  deriving DecidableEq, Repr

/-- Why the model gives a command no meaning. -/
inductive Refusal where
  /-- Raised by an arm of exec whose command has no meaning yet (no arm of this model does); safe. -/
  | notModelled (mnemonic : String)
  deriving DecidableEq, Repr

/-- The machine right after device reset with the strap levels k (R22, R61, R84, R100, R116, R129, R141, R144, R177). -/
def State.resetWith (k : BitVec 3) : State :=
  { pending := []
    now := 0
    ties := 0
    table := Vector.replicate 32 blankEntry
    waitQueue := []
    admission := []
    capacity := 0
    deficit := false
    outboxes := Vector.replicate 12 emptyOutbox
    nextItem := 0
    straps := k
    bus := .idle
    bits := []
    clock := none
    stallTimer := none
    railCode := 0
    sampled := 0
    qualified := none
    candidate := none
    qualTimer := none
    supply := .unqualified
    holdTimer := none
    slots := Vector.replicate 12 emptySlot
    inrush := []
    lastOn := none
    staged := defaultConfig
    active := defaultConfig
    events := 0
    evmask := 0
    cmd := 0
    arg0 := 0
    arg1 := 0
    result := 0
    snap := Vector.replicate 8 0
    frame := .closed
    inReset := false
    pins := idlePins
    wires := [] }

/-- The machine right after reset. The strap levels are the board's: DESIGN CHOICE k = 2, the value of the spec's own
example (07_module_bus_interface.md 7.9); unsafe, notes/assumptions/5.md. -/
def State.reset : State := State.resetWith 2

end Sys2Proof.Machine
end

