-- ==== Sys2Proof/Machine/Ops.lean ====
section
/-! DEFINITION. The named operations over the state: time, entries, lists, outboxes and slots, and the transitions of an
entry that several events share (R8, R9, R10, R29, R37, R69, R74, R150). -/

namespace Sys2Proof.Machine

/-! ## Time (R1) -/

/-- The last tick of the Time Base at or before the present instant. -/
def ticks (s : State) : Nat := s.now / 2

/-- The first tick of the Time Base at or after the present instant. -/
def firstTick (s : State) : Nat := (s.now + 1) / 2

/-- The present instant is a tick. -/
def atTick (s : State) : Bool := s.now % 2 == 0

/-- The tick at which a timer of d milliseconds started now expires: the only tick no sooner than d after the instant and
less than d + 1 ms after it (R1). -/
def expiryAfter (s : State) (d : Nat) : Nat := firstTick s + d

/-- A running timer has reached its expiry instant; a stopped timer does not expire (R1). -/
def due (s : State) : Option Nat → Bool
  | none => false
  | some t => decide (t ≤ ticks s)

/-- Milliseconds left on a timer, 0 for a stopped one (R1; DEDUCED, assumption 18). -/
def msLeft (s : State) : Option Nat → Nat
  | none => 0
  | some t => t - firstTick s

/-- Time remaining in units of 10 ms, rounded down (R1). -/
def tensLeft (s : State) (t : Option Nat) : Nat := msLeft s t / 10

/-! ## Device reset -/

/-- While RSTn is held low the part takes no transaction, no frame and no sample (R129, R141, R144, R177). -/
def unlessReset (f : State → State) (s : State) : State := if s.inReset then s else f s

/-! ## Configuration in force (R167) -/

/-- The register value of an item in the active configuration. -/
def activeItem (s : State) (x : Item) : Nat := (s.active[itemIndex x]).toNat

/-- The quantity of an item in force: its register value times the unit (Table 10-3). -/
def duration (s : State) (x : Item) : Nat := itemUnit x * activeItem s x

/-! ## Entries -/

/-- Entry i of the Contract Table. -/
def State.entry (s : State) (i : Idx) : Entry := s.table[i]

/-- The state with entry i replaced. -/
def State.setEntry (s : State) (i : Idx) (e : Entry) : State := { s with table := s.table.set i.val e i.isLt }

/-- The live states, which are also the powered states (R7). -/
def isLive : EntryState → Bool
  | .active | .reduced | .reducing | .revoking => true
  | .free | .waiting | .offered | .enabling | .retired => false

/-- ENABLING or live: the states that make a slot's need (R145). -/
def needsPower : EntryState → Bool
  | .enabling | .active | .reduced | .reducing | .revoking => true
  | .free | .waiting | .offered | .retired => false

/-- OFFERED, ENABLING or live (R7). -/
def isAdmitted : EntryState → Bool
  | .offered | .enabling | .active | .reduced | .reducing | .revoking => true
  | .free | .waiting | .retired => false

/-- The states in which a lease count runs when lease ≠ 0 (R6). -/
def countsLease : EntryState → Bool
  | .enabling | .active | .reduced | .reducing => true
  | .free | .waiting | .offered | .revoking | .retired => false

/-- Neither FREE nor RETIRED: the entries a cut, a trip or a BLOCK retires (R80, R155, R160). -/
def isStanding : EntryState → Bool
  | .waiting | .offered | .enabling | .active | .reduced | .reducing | .revoking => true
  | .free | .retired => false

/-- The indices of the entries with a property, ascending. -/
def entriesWhere (s : State) (p : Entry → Bool) : List Idx := allIdx.filter fun i => p (s.entry i)

/-- The number of entries with a property. -/
def countWhere (s : State) (p : Entry → Bool) : Nat := (entriesWhere s p).length

/-- A non-FREE entry of the slot. -/
def ofSlot (n : Slot) (e : Entry) : Bool := e.state != .free && e.slot == n

/-- The slot's non-FREE entries with a state of the given kind. -/
def ofSlotIn (n : Slot) (p : EntryState → Bool) (e : Entry) : Bool := ofSlot n e && p e.state

/-- The non-FREE entry of a slot with a tag, if there is one; at most one exists (R17). -/
def findTag (s : State) (n : Slot) (t : Tag) : Option Idx :=
  (entriesWhere s fun e => ofSlot n e && e.tag == t).head?

/-- The lowest-indexed FREE entry (R14). -/
def lowestFree (s : State) : Option Idx := (entriesWhere s fun e => e.state == .free).head?

/-! ## Totals (R50, R51, R53) -/

/-- H: the sum of the held levels of all entries (R50). -/
def heldTotal (s : State) : Nat := (allIdx.map fun i => (s.entry i).held).sum

/-- What an entry adds to P (R51): held − target in REDUCING, held in REVOKING, 0 otherwise. -/
def pendingOf (e : Entry) : Nat :=
  match e.state with
  | .reducing => e.held - e.target.getD e.held
  | .revoking => e.held
  | .free | .waiting | .offered | .enabling | .active | .reduced | .retired => 0

/-- P: the pending reduction (R51). -/
def pendingTotal (s : State) : Nat := (allIdx.map fun i => pendingOf (s.entry i)).sum

/-- Headroom: C − H when that is positive, otherwise 0 (R53). -/
def headroom (s : State) : Nat := s.capacity - heldTotal s

/-- The uncovered excess D = H − P − C when that is positive, otherwise 0 (R63). -/
def excess (s : State) : Nat := heldTotal s - (pendingTotal s + s.capacity)

/-! ## Leases (R91) -/

/-- Lease remaining in whole seconds: it falls by one at each whole second elapsed since the period started; 0 where
absent. -/
def leaseLeft (s : State) (e : Entry) : Nat :=
  match e.period with
  | none => 0
  | some p => e.lease - (ticks s - p.start) / 1000

/-- The lease period that starts now: none for a standing contract (R42, R91). -/
def newPeriod (s : State) (lease : Nat) : Option LeasePeriod :=
  if lease = 0 then none
  else some { start := firstTick s, warnPoint := activeItem s .leasewarn, warned := false }

/-! ## The two lists (R18, R20) -/

/-- The entry leaves the Wait Queue and the Admission Order; those behind it move up. -/
def leaveLists (i : Idx) (s : State) : State :=
  { s with waitQueue := s.waitQueue.filter (· != i), admission := s.admission.filter (· != i) }

/-- A claim joins at the end of its class: behind every entry of equal or higher class (R30). -/
def joinBehind (s : State) (c : Class) (i : Idx) : List Idx :=
  s.waitQueue.takeWhile (fun j => decide (c ≤ (s.entry j).cls)) ++ i
    :: s.waitQueue.dropWhile (fun j => decide (c ≤ (s.entry j).cls))

/-- A recalled entry joins ahead of its class: behind every entry of higher class (R33). -/
def joinAhead (s : State) (c : Class) (i : Idx) : List Idx :=
  s.waitQueue.takeWhile (fun j => decide (c < (s.entry j).cls)) ++ i
    :: s.waitQueue.dropWhile (fun j => decide (c < (s.entry j).cls))

/-- The number of WAITING entries ahead of an entry in the Wait Queue (R31, Table 1-4). -/
def waitingAhead (s : State) (i : Idx) : Nat := (s.waitQueue.takeWhile (· != i)).length

/-- A list position counted from 1 at the head, 0 for an entry not in the list (R19). -/
def positionIn (l : List Idx) (i : Idx) : Nat :=
  if l.contains i then (l.takeWhile (· != i)).length + 1 else 0

/-! ## Outboxes (R100 to R107) -/

/-- Slot n's outbox. -/
def State.outbox (s : State) (n : Slot) : Outbox := s.outboxes[n]

/-- The state with slot n's outbox replaced. -/
def State.setOutbox (s : State) (n : Slot) (o : Outbox) : State :=
  { s with outboxes := s.outboxes.set n.val o n.isLt }

/-- The slot's notices that fail a test are removed; those behind move up (R104). -/
def keepNotices (n : Slot) (p : Notice → Bool) (s : State) : State :=
  s.setOutbox n { s.outbox n with notices := (s.outbox n).notices.filter p }

/-- Every pending notice of the entry is removed from the slot's queue (R8). -/
def dropNotices (n : Slot) (i : Idx) (s : State) : State := keepNotices n (fun x => x.index != i) s

/-- The entry's pending notice of the kind is removed, a notice of another kind is left (R104). -/
def removeNotice (n : Slot) (i : Idx) (k : NoticeKind) (s : State) : State :=
  keepNotices n (fun x => !(x.index == i && x.kind == k)) s

/-- A notice of the kind waits for the entry. -/
def noticePending (s : State) (n : Slot) (i : Idx) (k : NoticeKind) : Bool :=
  (s.outbox n).notices.any fun x => x.index == i && x.kind == k

/-- A notice is queued: a pending notice of the same entry is removed and the new one is appended at the tail (R102). -/
def queueNotice (k : NoticeKind) (i : Idx) (level : Nat) (s : State) : State :=
  let e := s.entry i
  let o := s.outbox e.slot
  let x : Notice := { id := s.nextItem, kind := k, index := i, gen := e.gen, tag := e.tag, level := level }
  { s.setOutbox e.slot { o with notices := o.notices.filter (fun y => y.index != i) ++ [x] } with
    nextItem := s.nextItem + 1 }

/-- A reply is placed in the slot's reply buffer, the overwritten flag set if it displaces an undelivered one (R101). -/
def placeReply (n : Slot) (kind : Byte) (st : Status) (named : Option Idx) (gen : BitVec 8) (state : EntryState)
    (held extra : Nat) (s : State) : State :=
  let o := s.outbox n
  let r : Reply :=
    { id := s.nextItem, kind := kind, status := st, overwritten := o.reply.isSome, named := named, gen := gen,
      state := state, held := held, extra := extra }
  { s.setOutbox n { o with reply := some r } with nextItem := s.nextItem + 1 }

/-! ## Slots (R144 to R151) -/

/-- Slot n's record. -/
def State.slotRec (s : State) (n : Slot) : SlotRec := s.slots[n]

/-- The state with slot n's record replaced. -/
def State.setSlot (s : State) (n : Slot) (r : SlotRec) : State := { s with slots := s.slots.set n.val r n.isLt }

/-- The slot has a live entry. -/
def hasLive (s : State) (n : Slot) : Bool := allIdx.any fun i => ofSlotIn n isLive (s.entry i)

/-- The slot's need: at least one ENABLING or live entry (R145). -/
def hasNeed (s : State) (n : Slot) : Bool := allIdx.any fun i => ofSlotIn n needsPower (s.entry i)

/-- The switch turns off and the blanking, fault and stable timers stop (R148, R150, R155, R159). -/
def switchedOff (r : SlotRec) : SlotRec :=
  { r with switch := false, blanking := none, fault := none, stable := none }

/-- The slot leaves the Inrush Queue; those behind it move up (R151). -/
def leaveInrush (n : Slot) (s : State) : State := { s with inrush := s.inrush.filter (· != n) }

/-- The slot becomes the state given with its switch off, out of the Inrush Queue and without a class key. -/
def unpowerSlot (n : Slot) (st : SlotState) (s : State) : State :=
  leaveInrush n (s.setSlot n { switchedOff (s.slotRec n) with state := st, key := none })

/-- The slot's need is judged against the entries as they stand (R150). -/
def judgeNeed (n : Slot) (s : State) : State :=
  match (s.slotRec n).state with
  | .on => if hasLive s n then s else unpowerSlot n .idle s
  | .queued => if hasNeed s n then s else unpowerSlot n .idle s
  | .suspended => if hasNeed s n then s else unpowerSlot n .idle s
  | .empty | .idle | .tripped | .blocked => s

/-- Slot Power Control is told that the need may have changed if the entry was ENABLING or live (R8, R9). -/
def tellNeed (before : Entry) (s : State) : State :=
  if needsPower before.state then judgeNeed before.slot s else s

/-! ## Transitions of an entry that several events share -/

/-- The live state of an entry by its held level (R43, R153). -/
def poweredState (e : Entry) : EntryState := if e.held = e.requested then .active else .reduced

/-- The entry becomes FREE (R8). -/
def freeEntry (i : Idx) (s : State) : State :=
  let e := s.entry i
  tellNeed e (dropNotices e.slot i (leaveLists i (s.setEntry i { blankEntry with gen := e.gen + 1 })))

/-- The entry becomes RETIRED with the cause the event gives, or its own cause where the event keeps it (R5, R9, R107). -/
def retireWith (c : Option Cause) (i : Idx) (s : State) : State :=
  let e := s.entry i
  tellNeed e <| queueNotice .closed i 0 <| leaveLists i <|
    s.setEntry i { e with state := .retired, cause := c, held := 0, target := none, period := none,
                          deadline := some (expiryAfter s (duration s .deliv)) }

/-- The entry becomes RETIRED with the cause the event names (R9). -/
def retireEntry (c : Cause) (i : Idx) (s : State) : State := retireWith (some c) i s

/-- The entries are retired one after another in the order of the list. -/
def retireAll (c : Cause) (l : List Idx) (s : State) : State := l.foldl (fun t i => retireEntry c i t) s

/-- The slot's entries that are neither FREE nor RETIRED are retired in ascending index order (R80, R155, R160). -/
def retireSlot (c : Cause) (n : Slot) (s : State) : State := retireAll c (entriesWhere s (ofSlotIn n isStanding)) s

/-- The entry becomes OFFERED at a level: it leaves the Wait Queue, joins the end of the Admission Order and its offer
window starts (R18, R29, R37). -/
def offerEntry (i : Idx) (level : Nat) (s : State) : State :=
  let t := leaveLists i <|
    s.setEntry i { s.entry i with state := .offered, held := level,
                                  deadline := some (expiryAfter s (duration s .offerw)) }
  { t with admission := t.admission ++ [i] }

/-- The entry becomes WAITING with nothing held and joins the Wait Queue ahead of its class (R10, R33). -/
def returnToWaiting (i : Idx) (s : State) : State :=
  let t := leaveLists i <|
    s.setEntry i { s.entry i with state := .waiting, held := 0, period := none, deadline := none }
  { t with waitQueue := joinAhead t (s.entry i).cls i }

/-- An OFFERED entry whose module has not yet been told of the offer: its OFFER notice is still pending (R65). -/
def offerUntold (s : State) (i : Idx) : Bool :=
  (s.entry i).state == .offered && noticePending s (s.entry i).slot i .offer

/-- An OFFERED or ENABLING entry is recalled to WAITING, with a RECALL notice or the removal of its unread OFFER (R10, R33,
R64, R65). -/
def recallEntry (i : Idx) (s : State) : State :=
  tellNeed (s.entry i) <|
    if offerUntold s i then removeNotice (s.entry i).slot i .offer (returnToWaiting i s)
    else queueNotice .recall i 0 (returnToWaiting i s)

/-- An ACTIVE or REDUCED entry enters REDUCING with a target (R69). -/
def reduceEntry (i : Idx) (target : Nat) (s : State) : State :=
  queueNotice .reduce i target <|
    s.setEntry i { s.entry i with state := .reducing, target := some target,
                                  deadline := some (expiryAfter s (duration s .redgrace)) }

/-- A live entry enters REVOKING with a cause (R74). -/
def revokeEntry (c : Cause) (i : Idx) (s : State) : State :=
  queueNotice .revoke i 0 <|
    s.setEntry i { s.entry i with state := .revoking, cause := some c, target := none, period := none,
                                  deadline := some (expiryAfter s (duration s .revgrace)) }

end Sys2Proof.Machine
end

