-- ==== Sys2Proof/Machine/Flags.lean ====
section
/-! DEFINITION. The event flags (R175), the deficit flag (R54) and the lines derived from state: INTn (R176), ATTN (R113),
SWEN (R166). -/

namespace Sys2Proof.Machine

/-- The bit of an event flag (Table 10-5). -/
def eventMask (e : Event) : BitVec 10 := 1#10 <<< eventBit e

/-- An event flag is raised; a flag already set stays set (R175). -/
def raise (e : Event) (s : State) : State := { s with events := s.events ||| eventMask e }

/-- The flag is set in EVENTS. -/
def flagSet (s : State) (e : Event) : Bool := s.events.getLsbD (eventBit e)

/-- Each flag whose bit is written as 1 is cleared; bits 15 to 10 of the value are ignored (R175). -/
def clearFlags (v : Word) (s : State) : State := { s with events := s.events &&& ~~~(v.setWidth 10) }

/-- INTn is driven low while a flag enabled in EVMASK is set (R176). -/
def intLow (s : State) : Bool := (s.events &&& s.evmask) != 0

/-- ATTN[n] is asserted while slot n's notice queue holds a notice (R113). -/
def attn (s : State) (n : Slot) : Bool := !(s.outbox n).notices.isEmpty

/-- The level driven on SWEN[n], high = on (Table 9-1). -/
def swen (s : State) (n : Slot) : Bool := (s.slotRec n).switch

/-- The deficit flag is judged from H and C as an event leaves them (R54). -/
def judgeDeficit (s : State) : State :=
  if s.capacity < heldTotal s then
    if s.deficit then s else raise .deficitBegin { s with deficit := true }
  else if s.deficit then raise .deficitEnd { s with deficit := false }
  else s

end Sys2Proof.Machine
end

