-- ==== Sys2Proof/Machine/Budget.lean ====
section
/-! DEFINITION. The Budget Account's procedures: rebalance (R55 to R58, R36, R37), the shed plan (R63 to R68) and the
recomputation of capacity (R47 to R49). -/

namespace Sys2Proof.Machine

/-- The classes, lowest first. -/
def classesUp : List Class := [0, 1, 2, 3]

/-- The classes, highest first. -/
def classesDown : List Class := [3, 2, 1, 0]

/-! ## Rebalance -/

/-- A restoration candidate: REDUCED, or ENABLING below its requested level (R56). -/
def isShort (e : Entry) : Bool :=
  match e.state with
  | .reduced => true
  | .enabling => decide (e.held < e.requested)
  | .free | .waiting | .offered | .active | .reducing | .revoking | .retired => false

/-- The restoration candidates: class 3 first, within a class in Admission Order (R56). -/
def restoreOrder (s : State) : List Idx :=
  classesDown.flatMap fun c => s.admission.filter fun i => (s.entry i).cls == c && isShort (s.entry i)

/-- One candidate is raised as far as headroom allows (R56, R57). -/
def restoreEntry (s : State) (i : Idx) : State :=
  if headroom s = 0 then s
  else
    let e := s.entry i
    let level := min e.requested (e.held + headroom s)
    match e.state with
    | .reduced =>
      queueNotice .restore i level
        (s.setEntry i { e with held := level, state := if level = e.requested then .active else .reduced })
    | .enabling => s.setEntry i { e with held := level }
    | .free | .waiting | .offered | .active | .reducing | .revoking | .retired => s

/-- The restoration step (R56). -/
def restoration (s : State) : State := (restoreOrder s).foldl restoreEntry s

/-- The admission step over the Wait Queue as it stands, strictly from its head (R36, R37). -/
def admitFrom : List Idx → State → State
  | [], s => s
  | i :: rest, s =>
    if headroom s < (s.entry i).floor then s
    else
      let level := min (s.entry i).requested (headroom s)
      admitFrom rest (queueNotice .offer i level (offerEntry i level s))

/-- The conditions under which rebalance runs (R55). -/
def mayRebalance (s : State) : Bool := s.supply == .operating && decide (heldTotal s < s.capacity)

/-- Restoration and then admission (R58). -/
def spendHeadroom (s : State) : State :=
  let t := restoration s
  admitFrom t.waitQueue t

/-- Rebalance, where its conditions hold (R55). -/
def rebalance (s : State) : State := if mayRebalance s then spendHeadroom s else s

/-! ## The shed plan -/

/-- Entries of a class with a property, newest admitted first (R19). -/
def newestFirst (s : State) (c : Class) (p : Entry → Bool) : List Idx :=
  s.admission.reverse.filter fun i => (s.entry i).cls == c && p (s.entry i)

/-- The plan acts on each candidate while the uncovered excess is above 0 (R63). -/
def whileExcess (act : Idx → State → State) (l : List Idx) (s : State) : State :=
  l.foldl (fun t i => if excess t = 0 then t else act i t) s

/-- OFFERED or ENABLING: the candidates of step A (R64). -/
def isRecallable (e : Entry) : Bool := e.state == .offered || e.state == .enabling

/-- ACTIVE or REDUCED above the floor: the candidates of step B1 (R66). -/
def isReducible (e : Entry) : Bool := (e.state == .active || e.state == .reduced) && decide (e.floor < e.held)

/-- ACTIVE, REDUCED or REDUCING: the candidates of step B2 (R67). -/
def isRevocable (e : Entry) : Bool := e.state == .active || e.state == .reduced || e.state == .reducing

/-- Step A: recall, class 0 first (R64). -/
def shedRecall (s : State) : State :=
  whileExcess recallEntry (classesUp.flatMap fun c => newestFirst s c isRecallable) s

/-- One reduction of step B1: the target is the larger of the floor and held less D (R66). -/
def shedReduceOne (i : Idx) (s : State) : State :=
  reduceEntry i (max (s.entry i).floor ((s.entry i).held - excess s)) s

/-- Step B1 for a class (R66). -/
def shedReduce (c : Class) (s : State) : State := whileExcess shedReduceOne (newestFirst s c isReducible) s

/-- Step B2 for a class (R67). -/
def shedRevoke (c : Class) (s : State) : State := whileExcess (revokeEntry .shed) (newestFirst s c isRevocable) s

/-- The shed plan: A, then B1 and B2 class by class (R63). -/
def shedPlan (s : State) : State := classesUp.foldl (fun t c => shedRevoke c (shedReduce c t)) (shedRecall s)

/-! ## Capacity -/

/-- The capacity configured for a band; band 0 has none (Table 3-1). -/
def bandCapacity (s : State) (b : Band) : Nat :=
  if b = 1 then activeItem s .cap1 else if b = 2 then activeItem s .cap2 else if b = 3 then activeItem s .cap3 else 0

/-- C in OPERATING for a qualified band: the smaller of the band capacity and the ceiling (R47). -/
def operatingCapacity (s : State) (b : Band) : Nat := min (bandCapacity s b) (activeItem s .ceiling)

/-- C takes a new value; the shed plan runs if H − P > C, and rebalance if afterwards H < C in OPERATING (R49). -/
def recompute (c : Nat) (s : State) : State :=
  let t := { s with capacity := c }
  rebalance (if c + pendingTotal t < heldTotal t then shedPlan t else t)

end Sys2Proof.Machine
end

