-- ==== Sys2Proof/Machine/Requests.lean ====
section
/-! DEFINITION. The module requests: the request validation order (R120 to R124, R13) and the rules of each kind (chapters
1, 2, 4 and 5). -/

namespace Sys2Proof.Machine

/-! ## Replies -/

/-- A refusal at steps 1 to 7, or by a kind before it names an entry: index 0xFF, all other fields 0 (R124, R13, R25). -/
def refuse (n : Slot) (msg : List Byte) (st : Status) (s : State) : State :=
  placeReply n (byteAt msg 0) st none 0 .free 0 0 s

/-- The extra field of a reply by the entry's state (Table 1-4). -/
def extraOf (s : State) (i : Idx) : Nat :=
  let e := s.entry i
  match e.state with
  | .free => 0
  | .waiting => waitingAhead s i
  | .offered => tensLeft s e.deadline
  | .enabling | .active | .reduced | .reducing => leaseLeft s e
  | .revoking | .retired => causeCodeOf e.cause

/-- A reply that names the entry as it stands, with the extra field given. -/
def replyEntry (n : Slot) (msg : List Byte) (st : Status) (i : Idx) (extra : Nat) (s : State) : State :=
  let e := s.entry i
  placeReply n (byteAt msg 0) st (some i) e.gen e.state e.held extra s

/-- A refusal with WRONG_STATE: the reply names the entry, extra by Table 1-4 (R41, R70, R85, R95). -/
def wrongState (n : Slot) (msg : List Byte) (i : Idx) (s : State) : State :=
  replyEntry n msg .wrongState i (extraOf s i) s

/-! ## The request validation order (Table 7-3) -/

/-- Step 6, which applies to CLAIM alone (R123). -/
def slotRefusal (s : State) (n : Slot) : Option Status :=
  match (s.slotRec n).state with
  | .blocked => some .slotBlocked
  | .tripped => some .slotTripped
  | .empty | .idle | .queued | .on | .suspended => none

/-- The entry a handle names by the first part of the check of R13: index in range, not FREE, generation equal. -/
def handleEntry (s : State) (index gen : Nat) : Option Idx :=
  if h : index < 32 then
    let e := s.entry ⟨index, h⟩
    if e.state != .free && e.gen.toNat == gen then some ⟨index, h⟩ else none
  else none

/-- Step 7: STALE_HANDLE, then FOREIGN_HANDLE, or the entry named (R13). -/
def handleCheck (s : State) (n : Slot) (msg : List Byte) : Except Status Idx :=
  match handleEntry s (byteAt msg 1).toNat (byteAt msg 2).toNat with
  | none => .error .staleHandle
  | some i => if (s.entry i).slot = n then .ok i else .error .foreignHandle

/-- Steps 1 and 3 to 6 for a message of kind k: the status of the first step that fails (R120 to R123). -/
def refusalOf (s : State) (k : Kind) (n : Slot) (msg : List Byte) : Option Status :=
  if !checkOk s.straps n msg then some .checkError
  else if msg.length ≠ kindLength k then some .lengthError
  else if !fieldsInRange k msg then some .badValue
  else if !(s.slotRec n).seated then some .notSeated
  else if k = .claim then slotRefusal s n
  else none

/-- Steps 1 to 6, then step 7, then the kind's own rules on the entry named (R120). -/
def onHandle (k : Kind) (n : Slot) (msg : List Byte) (act : Idx → State → State) (s : State) : State :=
  match refusalOf s k n msg with
  | some st => refuse n msg st s
  | none =>
    match handleCheck s n msg with
    | .error st => refuse n msg st s
    | .ok i => act i s

/-! ## CLAIM (R25 to R31) -/

/-- The admission test (R27). -/
def admissible (s : State) (c : Class) (floor : Nat) : Bool :=
  s.supply == .operating && (entriesWhere s fun e => e.state == .waiting && decide (c ≤ e.cls)).isEmpty
    && decide (floor ≤ headroom s)

/-- The refusals of Table 2-1, in order; otherwise the entry to record the claim in (R25, R26). -/
def claimCheck (s : State) (n : Slot) (f : ClaimFields) : Except Status Idx :=
  if (findTag s n f.tag).isSome then .error .duplicateTag
  else if 4 ≤ countWhere s (ofSlot n) then .error .slotFull
  else match lowestFree s with
    | none => .error .tableFull
    | some i =>
      if !admissible s f.cls f.floor && decide (16 ≤ countWhere s fun e => e.state == .waiting) then .error .queueFull
      else .ok i

/-- The entry with the fields of the claim recorded in it; its generation stays (R3, R14). -/
def recordedEntry (e : Entry) (n : Slot) (f : ClaimFields) : Entry :=
  { blankEntry with gen := e.gen, slot := n, tag := f.tag, cls := f.cls, requested := f.requested, floor := f.floor,
                    lease := f.lease }

/-- A claim offered at once (R28, R29). -/
def claimOffered (i : Idx) (n : Slot) (f : ClaimFields) (s : State) : State :=
  offerEntry i (min f.requested (headroom s)) (s.setEntry i (recordedEntry (s.entry i) n f))

/-- A claim recorded as WAITING, at the end of its class (R30). -/
def claimWaiting (i : Idx) (n : Slot) (f : ClaimFields) (s : State) : State :=
  { s.setEntry i { recordedEntry (s.entry i) n f with state := .waiting } with waitQueue := joinBehind s f.cls i }

/-- Step 8 for CLAIM (R25 to R31). -/
def takeClaim (n : Slot) (msg : List Byte) (s : State) : State :=
  let f := claimFields msg
  match claimCheck s n f with
  | .error st => refuse n msg st s
  | .ok i =>
    let t := if admissible s f.cls f.floor then claimOffered i n f s else claimWaiting i n f s
    judgeDeficit (replyEntry n msg .accepted i (extraOf t i) t)

/-- A CLAIM message (R120, R25). -/
def handleClaim (n : Slot) (msg : List Byte) (s : State) : State :=
  match refusalOf s .claim n msg with
  | some st => refuse n msg st s
  | none => takeClaim n msg s

/-! ## CONFIRM (R41 to R44) -/

/-- The entry confirmed: the offer window stops and a lease period starts (R42). -/
def confirmedEntry (s : State) (e : Entry) (st : EntryState) : Entry :=
  { e with state := st, deadline := none, period := newPeriod s e.lease }

/-- A slot joins the Inrush Queue by class key, behind every slot of equal or higher key (R151). -/
def joinInrush (n : Slot) (c : Class) (s : State) : State :=
  let stays := fun m : Slot => decide (c ≤ ((s.slotRec m).key.getD 0))
  { s.setSlot n { s.slotRec n with state := .queued, key := some c } with
    inrush := s.inrush.takeWhile stays ++ n :: s.inrush.dropWhile stays }

/-- An IDLE slot gains a need (R149); in UNQUALIFIED and LOST no CONFIRM reaches this (R43, assumption 11). -/
def gainNeed (n : Slot) (c : Class) (s : State) : State :=
  match s.supply with
  | .operating => joinInrush n c s
  | .hold => s.setSlot n { s.slotRec n with state := .suspended }
  | .unqualified | .lost => s

/-- The hand-off of R43 (Table 2-5): the entry's new state, and the slot's. -/
def confirmEntry (i : Idx) (s : State) : State :=
  let e := s.entry i
  match (s.slotRec e.slot).state with
  | .on => s.setEntry i (confirmedEntry s e (poweredState e))
  | .idle => gainNeed e.slot e.cls (s.setEntry i (confirmedEntry s e .enabling))
  | .queued | .suspended | .empty | .tripped | .blocked => s.setEntry i (confirmedEntry s e .enabling)

/-- Step 8 for CONFIRM (R41 to R44). -/
def takeConfirm (n : Slot) (msg : List Byte) (i : Idx) (s : State) : State :=
  match (s.entry i).state with
  | .offered =>
    let t := confirmEntry i (removeNotice n i .offer s)
    replyEntry n msg .accepted i (leaseLeft t (t.entry i)) t
  | .free | .waiting | .enabling | .active | .reduced | .reducing | .revoking | .retired => wrongState n msg i s

/-- A CONFIRM message. -/
def handleConfirm (n : Slot) (msg : List Byte) (s : State) : State := onHandle .confirm n msg (takeConfirm n msg) s

/-! ## ADJUST (R85 to R89) -/

/-- The available raise: the headroom in OPERATING, otherwise 0 (R87). -/
def availableRaise (s : State) : Nat := if s.supply = .operating then headroom s else 0

/-- The new held level of R87 for requested r, floor f and held h; none for the refusal of its last row. -/
def adjustedLevel (r f h avail : Nat) : Option Nat :=
  if r < h then some r
  else if f ≤ h ∨ f - h ≤ avail then some (min r (h + avail))
  else none

/-- An accepted ADJUST of an ENABLING, ACTIVE or REDUCED entry (R88). -/
def adjustedEntry (e : Entry) (r f h : Nat) : Entry :=
  { e with requested := r, floor := f, held := h,
           state := if e.state = .enabling then .enabling else if h = r then .active else .reduced }

/-- ADJUST on a WAITING entry (R86): the reply is placed before the rebalance (R101). -/
def adjustWaiting (n : Slot) (msg : List Byte) (i : Idx) (s : State) : State :=
  let t := s.setEntry i { s.entry i with requested := adjustRequested msg, floor := adjustFloor msg }
  judgeDeficit (rebalance (replyEntry n msg .accepted i (waitingAhead t i) t))

/-- ADJUST on an ENABLING, ACTIVE or REDUCED entry (R87 to R89). -/
def adjustPowered (n : Slot) (msg : List Byte) (i : Idx) (s : State) : State :=
  let e := s.entry i
  let r := adjustRequested msg
  let f := adjustFloor msg
  match adjustedLevel r f e.held (availableRaise s) with
  | none => replyEntry n msg .noHeadroom i (availableRaise s) s
  | some h =>
    let t := removeNotice n i .restore (s.setEntry i (adjustedEntry e r f h))
    let u := replyEntry n msg .accepted i (leaseLeft t (t.entry i)) t
    judgeDeficit (if h < e.held then rebalance u else u)

/-- Step 8 for ADJUST (R85). -/
def takeAdjust (n : Slot) (msg : List Byte) (i : Idx) (s : State) : State :=
  match (s.entry i).state with
  | .waiting => adjustWaiting n msg i s
  | .enabling | .active | .reduced => adjustPowered n msg i s
  | .free | .offered | .reducing | .revoking | .retired => wrongState n msg i s

/-- An ADJUST message. -/
def handleAdjust (n : Slot) (msg : List Byte) (s : State) : State := onHandle .adjust n msg (takeAdjust n msg) s

/-! ## COMPLY (R70) -/

/-- The entry that complied: REDUCED at its target. -/
def compliedEntry (e : Entry) (t : Nat) : Entry :=
  { e with state := .reduced, held := t, target := none, deadline := none }

/-- Step 8 for COMPLY (R70). -/
def takeComply (n : Slot) (msg : List Byte) (i : Idx) (s : State) : State :=
  let e := s.entry i
  match e.state with
  | .reducing =>
    let target := e.target.getD e.held
    if target < complyLevel msg then replyEntry n msg .levelMismatch i target s
    else
      let t := removeNotice n i .reduce (s.setEntry i (compliedEntry e target))
      judgeDeficit (rebalance (replyEntry n msg .accepted i (leaseLeft t (t.entry i)) t))
  | .free | .waiting | .offered | .enabling | .active | .reduced | .revoking | .retired => wrongState n msg i s

/-- A COMPLY message. -/
def handleComply (n : Slot) (msg : List Byte) (s : State) : State := onHandle .comply n msg (takeComply n msg) s

/-! ## RENEW (R95) -/

/-- Step 8 for RENEW (R95). -/
def takeRenew (n : Slot) (msg : List Byte) (i : Idx) (s : State) : State :=
  let e := s.entry i
  if countsLease e.state && e.lease != 0 then
    let t := removeNotice n i .leaseWarn (s.setEntry i { e with period := newPeriod s e.lease })
    replyEntry n msg .accepted i (leaseLeft t (t.entry i)) t
  else wrongState n msg i s

/-- A RENEW message. -/
def handleRenew (n : Slot) (msg : List Byte) (s : State) : State := onHandle .renew n msg (takeRenew n msg) s

/-! ## RELEASE (R97, R98) -/

/-- The extra field of the reply to a RELEASE: the cause code in REVOKING and RETIRED, else 0 (R97). -/
def releaseExtra (e : Entry) : Nat :=
  match e.state with
  | .revoking | .retired => causeCodeOf e.cause
  | .free | .waiting | .offered | .enabling | .active | .reduced | .reducing => 0

/-- Step 8 for RELEASE (R97): the reply carries the generation before the freeing and stands before the rebalance. -/
def takeRelease (n : Slot) (msg : List Byte) (i : Idx) (s : State) : State :=
  let e := s.entry i
  judgeDeficit <| rebalance <|
    placeReply n (byteAt msg 0) .accepted (some i) e.gen .free 0 (releaseExtra e) (freeEntry i s)

/-- A RELEASE message. -/
def handleRelease (n : Slot) (msg : List Byte) (s : State) : State := onHandle .release n msg (takeRelease n msg) s

/-! ## QUERY (R21) -/

/-- Step 8 for QUERY (R21). -/
def takeQuery (n : Slot) (msg : List Byte) (s : State) : State :=
  match findTag s n (queryTag msg) with
  | none => refuse n msg .noSuchTag s
  | some i => replyEntry n msg .accepted i (extraOf s i) s

/-- A QUERY message. -/
def handleQuery (n : Slot) (msg : List Byte) (s : State) : State :=
  match refusalOf s .query n msg with
  | some st => refuse n msg st s
  | none => takeQuery n msg s

/-! ## Any message (R120) -/

/-- The rules of a kind. -/
def handleKind (k : Kind) (n : Slot) (msg : List Byte) (s : State) : State :=
  match k with
  | .claim => handleClaim n msg s
  | .confirm => handleConfirm n msg s
  | .adjust => handleAdjust n msg s
  | .comply => handleComply n msg s
  | .renew => handleRenew n msg s
  | .release => handleRelease n msg s
  | .query => handleQuery n msg s

/-- A message as the Request Handler receives it: step 1, step 2, then its kind (R121). A message that passes both is no
REFUSED_MESSAGE; it is taken as what its bytes say (assumption 14). -/
def handleMessage (n : Slot) (msg : List Byte) (s : State) : State :=
  if !checkOk s.straps n msg then refuse n msg .checkError s
  else match kindOf (byteAt msg 0) with
    | none => refuse n msg .unknownKind s
    | some k => handleKind k n msg s

end Sys2Proof.Machine
end

