-- ==== Sys2Proof/Machine/Reads.lean ====
section
/-! DEFINITION. Records and their delivery: staging (R108, R125, R130) and what a complete read removes (R109 to R111,
R127). -/

namespace Sys2Proof.Machine

/-! ## Records (Table 7-6) -/

/-- Bytes 0 to 10 of a REPLY record. -/
def replyBody (r : Reply) : List Byte :=
  [0x10#8, r.kind, loByte (statusCode r.status), if r.overwritten then 1 else 0,
   match r.named with | none => 0xFF#8 | some i => loByte i.val,
   r.gen, loByte (entryStateCode r.state), hiByte r.held, loByte r.held, hiByte r.extra, loByte r.extra]

/-- The cause field of a notice, read at staging (Table 6-3). -/
def noticeCause (s : State) (x : Notice) : Nat :=
  match x.kind with
  | .revoke | .closed => causeCodeOf (s.entry x.index).cause
  | .offer | .recall | .reduce | .restore | .leaseWarn => 0

/-- The time-remaining field of a notice, read at staging (Table 6-3). -/
def noticeTime (s : State) (x : Notice) : Nat :=
  match x.kind with
  | .offer | .reduce | .revoke => tensLeft s (s.entry x.index).deadline
  | .leaseWarn => leaseLeft s (s.entry x.index)
  | .recall | .restore | .closed => 0

/-- Bytes 0 to 10 of a notice record. -/
def noticeBody (s : State) (x : Notice) : List Byte :=
  [loByte (noticeCode x.kind), loByte x.index.val, x.gen, loByte x.tag.val, hiByte x.level, loByte x.level,
   loByte (noticeCause s x), hiByte (noticeTime s x), loByte (noticeTime s x), 0, 0]

/-- Bytes 0 to 10 of an IDLE record. -/
def idleBody : List Byte := List.replicate 11 0

/-- The qualified band byte of a SUMMARY record: 0xFF while the supply is UNQUALIFIED (R130, R136). -/
def bandByte (s : State) : Byte :=
  if s.supply = .unqualified then 0xFF#8 else match s.qualified with | none => 0xFF#8 | some b => loByte b.val

/-- The number of WAITING entries (R20). -/
def waitingCount (s : State) : Nat := countWhere s fun e => e.state == .waiting

/-- Bytes 0 to 10 of a SUMMARY record (R60). -/
def summaryBody (s : State) : List Byte :=
  [0x30#8, loByte (supplyCode s.supply), bandByte s, if s.deficit then 1 else 0,
   hiByte s.capacity, loByte s.capacity, hiByte (heldTotal s), loByte (heldTotal s),
   hiByte (pendingTotal s), loByte (pendingTotal s), loByte (waitingCount s)]

/-- The record with its check byte, over the address byte of this read and bytes 0 to 10 (R125). -/
def withCheck (s : State) (a : ReadAddr) (body : List Byte) : List Byte :=
  body ++ [crc8 (readAddr s.straps a :: body)]

/-- The outbox item a read of slot n stages: the reply, else the head notice, else nothing (R108). -/
def stagedItem (s : State) (n : Slot) : StagedItem :=
  match (s.outbox n).reply, (s.outbox n).notices with
  | some r, _ => .reply n r.id
  | none, x :: _ => .notice n x.id
  | none, [] => .nothing

/-- Bytes 0 to 10 of the record a read of slot n stages (R108). -/
def slotBody (s : State) (n : Slot) : List Byte :=
  match (s.outbox n).reply, (s.outbox n).notices with
  | some r, _ => replyBody r
  | none, x :: _ => noticeBody s x
  | none, [] => idleBody

/-- The interface with the record staged for a read (R125). -/
def stageRecord (a : ReadAddr) (s : State) : Bus :=
  match a with
  | .slot n => .send (withCheck s a (slotBody s n)) (stagedItem s n) 0 true
  | .summary => .send (withCheck s a (summaryBody s)) .nothing 0 true

/-! ## Delivery -/

/-- A staged reply is removed if that same reply is still in the buffer (R109). -/
def deliverReply (n : Slot) (id : Nat) (s : State) : State :=
  match (s.outbox n).reply with
  | none => s
  | some r => if r.id = id then s.setOutbox n { s.outbox n with reply := none } else s

/-- A staged notice is removed if that same notice is still in the queue; a CLOSED notice so delivered frees its entry
(R109, R111). -/
def deliverNotice (n : Slot) (id : Nat) (s : State) : State :=
  match (s.outbox n).notices.find? fun x => x.id == id with
  | none => s
  | some x =>
    let t := keepNotices n (fun y => y.id != id) s
    if x.kind = .closed then freeEntry x.index t else t

/-- What a complete read removes (R109, R127). -/
def deliver (item : StagedItem) (s : State) : State :=
  match item with
  | .nothing => s
  | .reply n id => deliverReply n id s
  | .notice n id => deliverNotice n id s

end Sys2Proof.Machine
end

