-- ==== Sys2Proof/Machine/ModuleBus.lean ====
section
/-! DEFINITION. The Module Bus Interface on the bus (R116 to R119, R126 to R128): the states of Table 7-2, what the part drives
on SDA, START, STOP and bytes as changes of SCL and SDA, the stall timer, and the commands of the bus. -/

namespace Sys2Proof.Machine

/-- The straps give a valid window (R116, R117). -/
def windowValid (s : State) : Bool := validStraps s.straps

/-! ## The stall timer (R128) -/

/-- Length of the stall timer in milliseconds (R128). -/
def stallMs : Nat := 25

/-- The states in which the stall timer runs: RECEIVE, OVERRUN and SEND (R128). -/
def takesPart : Bus → Bool
  | .receive _ _ | .overrun _ | .send _ _ _ _ => true
  | .idle | .address | .passive => false

/-- The stall timer starts where the interface takes part in a transaction with SCL low, and is stopped elsewhere. -/
def timeStall (s : State) : State :=
  { s with stallTimer := if takesPart s.bus && !s.pins.scl then some (expiryAfter s stallMs) else none }

/-- The interface enters a state at a byte boundary. -/
def enterBus (b : Bus) (s : State) : State := timeStall { s with bus := b, bits := [], clock := none }

/-! ## A complete byte (Table 7-2) -/

/-- A complete data byte of a write: the first 16 are stored, the seventeenth overruns (R119). -/
def storeByte : Bus → Byte → Bus
  | .receive n buffer, b => if buffer.length < 16 then .receive n (buffer ++ [b]) else .overrun n
  | .overrun n, _ => .overrun n
  | .idle, _ => .idle
  | .address, _ => .address
  | .send record item sent answered, _ => .send record item sent answered
  | .passive, _ => .passive

/-- The interface after an acknowledged write address and the data bytes (R118, R119). -/
def received (n : Slot) (bytes : List Byte) : Bus := bytes.foldl storeByte (.receive n [])

/-- A byte of a read has been clocked with its acknowledgement bit: one more record byte is transferred, acknowledged or not,
and after a byte not acknowledged nothing more is sent (R126). -/
def transferByte : Bus → Bool → Bus
  | .send record item sent true, ack => .send record item (min 12 (sent + 1)) ack
  | .send record item sent false, _ => .send record item sent false
  | .idle, _ => .idle
  | .address, _ => .address
  | .receive n buffer, _ => .receive n buffer
  | .overrun n, _ => .overrun n
  | .passive, _ => .passive

/-- The interface after the bytes of a read with these acknowledgement bits. -/
def transferred (acks : List Bool) (b : Bus) : Bus := acks.foldl transferByte b

/-- The interface after the address byte in `bits` (R118, R125). -/
def afterAddress (s : State) : Bus :=
  match addressed s.straps (byteOf s.bits) with
  | none => .passive
  | some (.write n) => .receive n []
  | some (.read a) => stageRecord a s

/-- The interface after the byte in `bits` and its acknowledgement bit. -/
def afterByte (ack : Bool) (s : State) : Bus :=
  match s.bus with
  | .address => afterAddress s
  | .receive _ _ | .overrun _ => storeByte s.bus (byteOf s.bits)
  | .send _ _ _ _ => transferByte s.bus ack
  | .idle => .idle
  | .passive => .passive

/-! ## SDA (R118, R119, R126) -/

/-- The interface acknowledges the byte in `bits`. -/
def acknowledges (s : State) : Bool :=
  match s.bus with
  | .address => (addressed s.straps (byteOf s.bits)).isSome
  | .receive _ buffer => decide (buffer.length < 16)
  | .idle | .overrun _ | .send _ _ _ _ | .passive => false

/-- The byte the interface sends at place k of a read: a record byte, and 0xFF beyond the twelfth (R126). -/
def sentByte (record : List Byte) (k : Nat) : Byte := record.getD k 0xFF#8

/-- The part holds SDA low: for a bit 0 of the byte it sends, most significant bit first, or to acknowledge a byte. -/
def sdaHeld (s : State) : Bool :=
  match s.bus with
  | .send record _ sent answered =>
    answered && decide (s.bits.length < 8) && !(sentByte record sent).getMsbD s.bits.length
  | .address | .receive _ _ | .overrun _ => s.bits.length == 8 && acknowledges s
  | .idle | .passive => false

/-- The level of SDA on the bus, open drain. -/
def sdaLine (s : State) : Bool := s.pins.sda && !sdaHeld s

/-! ## START and STOP (R118, Table 7-2) -/

/-- The write that ends is taken as one message, unless it received no byte or ends inside a byte (R119). -/
def takeWrite (n : Slot) (buffer : List Byte) (s : State) : State :=
  match buffer, s.bits with
  | _ :: _, [] => handleMessage n buffer s
  | [], _ => s
  | _ :: _, _ :: _ => s

/-- What ends in flight at a START or STOP: a write (R119, R120) or a read, complete with all 12 bytes transferred (R127). -/
def endInFlight (s : State) : State :=
  match s.bus with
  | .receive n buffer => takeWrite n buffer s
  | .send _ item sent _ => if 12 ≤ sent then deliver item s else s
  | .idle | .address | .overrun _ | .passive => s

/-- The state the interface passes to at the STOP or START that ends a transaction (Table 7-2). -/
def afterEnd : BusEnd → Bus
  | .stop => .idle
  | .restart => .address

/-- A STOP or a START on the bus. -/
def endTransaction (e : BusEnd) (s : State) : State := enterBus (afterEnd e) (endInFlight s)

/-- A START. -/
def startSeen (s : State) : State := endTransaction .restart s

/-- A STOP. -/
def stopSeen (s : State) : State := endTransaction .stop s

/-! ## Changes of SCL and SDA (R118; assumption 22) -/

/-- A bit of a byte has been clocked: one of its eight bits, or its acknowledgement bit, SDA low, with which it is complete. -/
def takeBit (level : Bool) (s : State) : State :=
  match s.bus with
  | .idle | .passive => s
  | .address | .receive _ _ | .overrun _ | .send _ _ _ _ =>
    if s.bits.length < 8 then { s with bits := s.bits ++ [level] } else enterBus (afterByte (!level) s) s

/-- SCL rises: the level of SDA is sampled and the stall timer stops. -/
def sclRise (s : State) : State :=
  { s with pins := { s.pins with scl := true }, clock := some (sdaLine s), stallTimer := none }

/-- SCL falls: the clock that ends gives its bit, and the stall timer starts. -/
def sclFall (s : State) : State :=
  let t := { s with pins := { s.pins with scl := false }, clock := none }
  timeStall <|
    match s.clock with
    | none => t
    | some level => takeBit level t

/-- A change of SCL. -/
def moveScl (high : Bool) (s : State) : State :=
  if high = s.pins.scl then s else if high then sclRise s else sclFall s

/-- A change of the level the others leave on SDA: with SCL high, a fall of the line is a START and a rise a STOP. -/
def moveSda (high : Bool) (s : State) : State :=
  let t := { s with pins := { s.pins with sda := high } }
  if s.pins.scl && sdaLine s && !sdaLine t then startSeen t
  else if s.pins.scl && !sdaLine s && sdaLine t then stopSeen t
  else t

/-! ## The commands

A message row is a whole write transaction from its START; READ_STAGING is the START and the address byte of a read and READ_END
the bytes after it with the end (assumption 6). While RSTn is held low no row is taken (R129). -/

/-- The write whose bytes and end the row gives is taken as one message, unless the window is invalid (R117), no byte was
received or the buffer overran (R119); then the handler is not reached. -/
def writeMessage (n : Slot) (bytes : List Byte) (handler : State → State) (e : BusEnd) : State → State :=
  unlessReset fun s =>
    let t := startSeen s
    enterBus (afterEnd e) <|
      if windowValid t then
        match received n bytes with
        | .receive _ (_ :: _) => handler t
        | .receive _ [] | .idle | .address | .overrun _ | .send _ _ _ _ | .passive => t
      else t

/-- CLAIM (R25). -/
def execClaim (n : Slot) (body : List Byte) (e : BusEnd) (s : State) : Host.Outcome State Fault Refusal :=
  .next (writeMessage n (kindByte .claim :: body) (handleClaim n (kindByte .claim :: body)) e s)

/-- CONFIRM (R41). -/
def execConfirm (n : Slot) (body : List Byte) (e : BusEnd) (s : State) : Host.Outcome State Fault Refusal :=
  .next (writeMessage n (kindByte .confirm :: body) (handleConfirm n (kindByte .confirm :: body)) e s)

/-- ADJUST (R85). -/
def execAdjust (n : Slot) (body : List Byte) (e : BusEnd) (s : State) : Host.Outcome State Fault Refusal :=
  .next (writeMessage n (kindByte .adjust :: body) (handleAdjust n (kindByte .adjust :: body)) e s)

/-- COMPLY (R70). -/
def execComply (n : Slot) (body : List Byte) (e : BusEnd) (s : State) : Host.Outcome State Fault Refusal :=
  .next (writeMessage n (kindByte .comply :: body) (handleComply n (kindByte .comply :: body)) e s)

/-- RENEW (R95). -/
def execRenew (n : Slot) (body : List Byte) (e : BusEnd) (s : State) : Host.Outcome State Fault Refusal :=
  .next (writeMessage n (kindByte .renew :: body) (handleRenew n (kindByte .renew :: body)) e s)

/-- RELEASE (R97). -/
def execRelease (n : Slot) (body : List Byte) (e : BusEnd) (s : State) : Host.Outcome State Fault Refusal :=
  .next (writeMessage n (kindByte .release :: body) (handleRelease n (kindByte .release :: body)) e s)

/-- QUERY (R21). -/
def execQuery (n : Slot) (body : List Byte) (e : BusEnd) (s : State) : Host.Outcome State Fault Refusal :=
  .next (writeMessage n (kindByte .query :: body) (handleQuery n (kindByte .query :: body)) e s)

/-- REFUSED_MESSAGE (R124). -/
def execRefusedMessage (n : Slot) (msg : List Byte) (e : BusEnd) (s : State) : Host.Outcome State Fault Refusal :=
  .next (writeMessage n msg (handleMessage n msg) e s)

/-- WRITE_DISCARDED (R119): no reply, no flag, no entry, whatever the reason. -/
def execWriteDiscarded (_n : Slot) (_why : Discard) (e : BusEnd) (s : State) : Host.Outcome State Fault Refusal :=
  .next (unlessReset (fun u => enterBus (afterEnd e) (startSeen u)) s)

/-- READ_STAGING (R125). With an invalid window no address is acknowledged and the interface turns PASSIVE (R117, R118). -/
def execReadStaging (a : ReadAddr) (s : State) : Host.Outcome State Fault Refusal :=
  .next <| unlessReset (s := s) fun u =>
    let t := startSeen u
    enterBus (if windowValid t then stageRecord a t else .passive) t

/-- READ_END (R126, R127): the bytes clocked with these acknowledgement bits, and the STOP or START that ends the read. -/
def execReadEnd (acks : List Bool) (e : BusEnd) (s : State) : Host.Outcome State Fault Refusal :=
  .next (unlessReset (fun u => endTransaction e { u with bus := transferred acks u.bus }) s)

/-- The stall timer of a transaction the part takes part in runs to a tick that has come (R128). -/
def stallDue (s : State) (tick : Nat) : Bool := takesPart s.bus && s.stallTimer == some tick && due s (some tick)

/-- STALL_TIMER_EXPIRY (R128): the transaction is abandoned, with no reply and no delivery. -/
def execStallTimerExpiry (tick : Nat) (s : State) : Host.Outcome State Fault Refusal :=
  .next (if stallDue s tick then raise .busStall (enterBus .passive s) else s)

end Sys2Proof.Machine
end

