-- ==== Sys2Proof/Machine/SlotPower.lean ====
section
/-! DEFINITION. Slot Power Control (chapter 9): presence, turn-on, faults, trips, the HOLD suspension and restart, cuts, and
the entry timers whose expiry cuts a slot or closes a contract (R40, R71, R77, R92 to R94, R112). -/

namespace Sys2Proof.Machine

/-! ## Presence (R146 to R148) -/

/-- Length of the presence timer in milliseconds (R146). -/
def presenceMs : Nat := 50

/-- PRESENCE_SAMPLE (R146); no sample is taken while RSTn is held low (R144). -/
def execPresenceSample (n : Slot) (high : Bool) (s : State) : Host.Outcome State Fault Refusal :=
  .next <| unlessReset (s := s) fun s =>
    let r := s.slotRec n
    if high = r.seated then s.setSlot n { r with presence := none }
    else if r.presence.isSome then s
    else s.setSlot n { r with presence := some (expiryAfter s presenceMs) }

/-- The slot's reply buffer is cleared (R147). -/
def clearReply (n : Slot) (s : State) : State := s.setOutbox n { s.outbox n with reply := none }

/-- Insertion (R147). -/
def insertModule (n : Slot) (s : State) : State :=
  let r := s.slotRec n
  let st := if r.state = .empty then .idle else r.state
  raise .seatChange <| clearReply n <|
    s.setSlot n { r with seated := true, presence := none, state := st }

/-- Every entry of the list is freed. -/
def freeAll (l : List Idx) (s : State) : State := l.foldl (fun t i => freeEntry i t) s

/-- The slot's side of a removal (R148): a BLOCKED slot stays BLOCKED, every other becomes EMPTY with its switch off, its
timers stopped and its place in the Inrush Queue lost; the trip count is kept. -/
def emptyOfModule (n : Slot) (s : State) : State :=
  let r := s.slotRec n
  if r.state = .blocked then s.setSlot n { r with seated := false, presence := none }
  else
    leaveInrush n <|
      s.setSlot n { switchedOff r with state := .empty, seated := false, presence := none, key := none, cooldown := none }

/-- Removal (R148, R24, R115). -/
def removeModule (n : Slot) (s : State) : State :=
  let t := emptyOfModule n s
  let t := freeAll (entriesWhere t (ofSlot n)) t
  judgeDeficit (rebalance (raise .seatChange (t.setOutbox n emptyOutbox)))

/-- PRESENCE_TIMER_EXPIRY (R146): the qualified value changes to the sampled value, which differs from it while the timer
runs. -/
def execPresenceTimerExpiry (n : Slot) (s : State) : Host.Outcome State Fault Refusal :=
  let r := s.slotRec n
  .next <|
    if due s r.presence then
      if r.seated then removeModule n s else insertModule n s
    else s

/-! ## Turn-on (R152, R153) -/

/-- The INRUSH spacing has passed since the last turn-on (R152). -/
def spacingPassed (s : State) : Bool :=
  match s.lastOn with
  | none => true
  | some t => decide (t + duration s .inrush ≤ ticks s)

/-- The conditions of a turn-on (R152): a tick, the supply OPERATING, the spacing passed, a slot queued. -/
def turnOnDue (s : State) : Bool :=
  atTick s && s.supply == .operating && spacingPassed s && !s.inrush.isEmpty

/-- Each ENABLING entry of the slot becomes ACTIVE or REDUCED (R153). -/
def energize (n : Slot) (s : State) : State :=
  (entriesWhere s (ofSlotIn n fun st => st == .enabling)).foldl
    (fun t i => t.setEntry i { t.entry i with state := poweredState (t.entry i) }) s

/-- The timer of a duration in force; a duration of 0 starts none (R154 for BLANK). -/
def startTimer (s : State) (x : Item) : Option Nat :=
  if duration s x = 0 then none else some (expiryAfter s (duration s x))

/-- The slot is turned on (R153). -/
def turnOnSlot (n : Slot) (s : State) : State :=
  let t := leaveInrush n <|
    s.setSlot n { s.slotRec n with state := .on, switch := true, key := none, blanking := startTimer s .blank,
                                   stable := startTimer s .stable, fault := none }
  { energize n t with lastOn := some (ticks s) }

/-- TURN_ON (R152, R153): taken only if its conditions hold, on the slot then at the head of the Inrush Queue. -/
def execTurnOn (s : State) : Host.Outcome State Fault Refusal :=
  match s.inrush with
  | [] => .next s
  | n :: _ => .next (if turnOnDue s then turnOnSlot n s else s)

/-! ## Faults and trips (R154 to R156) -/

/-- FAULT_SAMPLE (R154): samples count only while the slot is ON and its blanking timer is not running. -/
def execFaultSample (n : Slot) (high : Bool) (s : State) : Host.Outcome State Fault Refusal :=
  .next <| unlessReset (s := s) fun s =>
    let r := s.slotRec n
    if r.state = .on ∧ r.blanking = none then
      if high then
        if r.fault.isSome then s else s.setSlot n { r with fault := some (expiryAfter s (duration s .faultq)) }
      else s.setSlot n { r with fault := none }
    else s

/-- BLANKING_TIMER_EXPIRY (R154). -/
def execBlankingTimerExpiry (n : Slot) (s : State) : Host.Outcome State Fault Refusal :=
  let r := s.slotRec n
  .next (if due s r.blanking then s.setSlot n { r with blanking := none } else s)

/-- The slot after its trip (R155): BLOCKED at the trip limit, otherwise TRIPPED with its cooldown running. -/
def trippedSlot (s : State) (r : SlotRec) : SlotRec :=
  let q := { switchedOff r with key := none, trips := r.trips + 1 }
  if activeItem s .triplim ≤ r.trips + 1 then { q with state := .blocked }
  else { q with state := .tripped, cooldown := some (expiryAfter s (duration s .cooldown)) }

/-- A trip (R155). -/
def tripSlot (n : Slot) (s : State) : State :=
  let r := s.slotRec n
  let t := retireSlot .fault n (s.setSlot n (trippedSlot s r))
  let t := raise .slotTrip t
  let t := if activeItem s .triplim ≤ r.trips + 1 then raise .slotBlock t else t
  judgeDeficit (rebalance t)

/-- The fault timer of an ON slot has expired. -/
def tripDue (s : State) (n : Slot) : Bool := (s.slotRec n).state == .on && due s (s.slotRec n).fault

/-- TRIP (R155). -/
def execTrip (n : Slot) (s : State) : Host.Outcome State Fault Refusal :=
  .next (if tripDue s n then tripSlot n s else s)

/-- The cooldown of a TRIPPED slot has expired. -/
def cooldownDue (s : State) (n : Slot) : Bool :=
  (s.slotRec n).state == .tripped && due s (s.slotRec n).cooldown

/-- COOLDOWN_EXPIRY (R156). -/
def execCooldownExpiry (n : Slot) (s : State) : Host.Outcome State Fault Refusal :=
  .next (if cooldownDue s n then s.setSlot n { s.slotRec n with state := .idle, cooldown := none } else s)

/-- STABLE_TIMER_EXPIRY (R156): the trip count becomes 0 and the timer does not restart. -/
def execStableTimerExpiry (n : Slot) (s : State) : Host.Outcome State Fault Refusal :=
  .next (if due s (s.slotRec n).stable then s.setSlot n { s.slotRec n with trips := 0, stable := none } else s)

/-! ## HOLD and restart (R157, R158) -/

/-- A slot's record at the entry to HOLD (R157). -/
def suspendedRec (r : SlotRec) : SlotRec :=
  match r.state with
  | .on => { switchedOff r with state := .suspended }
  | .queued => { r with state := .suspended, key := none }
  | .empty | .idle | .suspended | .tripped | .blocked => r

/-- Suspension: every ON and QUEUED slot becomes SUSPENDED and the Inrush Queue empties (R157). -/
def suspendAll (s : State) : State :=
  { allSlots.foldl (fun t n => t.setSlot n (suspendedRec (t.slotRec n))) s with inrush := [] }

/-- The highest class among the slot's ENABLING and live entries (R158). -/
def needClass (s : State) (n : Slot) : Class :=
  ((entriesWhere s (ofSlotIn n needsPower)).map fun i => (s.entry i).cls).foldl max 0

/-- A SUSPENDED slot at the restart: QUEUED with its class key, or IDLE if it has no need left (R158). -/
def restartedRec (s : State) (n : Slot) (r : SlotRec) : SlotRec :=
  match r.state with
  | .suspended =>
    if hasNeed s n then { r with state := .queued, key := some (needClass s n) } else { r with state := .idle }
  | .empty | .idle | .queued | .on | .tripped | .blocked => r

/-- The slots to restart, by class key, highest first, and among equal keys by slot number (R158). -/
def restartOrder (s : State) : List Slot :=
  classesDown.flatMap fun c => allSlots.filter fun n =>
    (s.slotRec n).state == .suspended && hasNeed s n && needClass s n == c

/-- The restart of the SUSPENDED slots at the return to OPERATING (R158). -/
def restartAll (s : State) : State :=
  { allSlots.foldl (fun t n => t.setSlot n (restartedRec s n (t.slotRec n))) s with inrush := restartOrder s }

/-! ## The enforcement cut (R80, R159) -/

/-- The slot's side of a cut: IDLE from ON, QUEUED or SUSPENDED (R159, Table 4-4). -/
def cutRec (n : Slot) (s : State) : State :=
  match (s.slotRec n).state with
  | .on | .queued | .suspended => unpowerSlot n .idle s
  | .empty | .idle | .tripped | .blocked => s

/-- An enforcement cut of the slot (R80). -/
def cutSlot (n : Slot) (s : State) : State :=
  judgeDeficit (rebalance (raise .slotCut (cutRec n (retireSlot .enforced n s))))

/-! ## Expiries of an entry's timers -/

/-- The entry is in the state and its deadline has been reached. -/
def deadlineDue (s : State) (i : Idx) (st : EntryState) : Bool :=
  (s.entry i).state == st && due s (s.entry i).deadline

/-- OFFER_WINDOW_EXPIRY (R40): the offer lapses. -/
def execOfferWindowExpiry (i : Idx) (s : State) : Host.Outcome State Fault Refusal :=
  .next (if deadlineDue s i .offered then judgeDeficit (rebalance (retireEntry .lapsed i s)) else s)

/-- REDUCE_GRACE_EXPIRY (R71): the slot is cut, whatever its state. -/
def execReduceGraceExpiry (i : Idx) (s : State) : Host.Outcome State Fault Refusal :=
  .next (if deadlineDue s i .reducing then cutSlot (s.entry i).slot s else s)

/-- The slot has a live entry other than this one (R77). -/
def otherLive (s : State) (i : Idx) : Bool :=
  allIdx.any fun j => j != i && ofSlotIn (s.entry i).slot isLive (s.entry j)

/-- REVOKE_GRACE_EXPIRY (R77): the slot's sole live entry is retired keeping its cause, otherwise the slot is cut. -/
def execRevokeGraceExpiry (i : Idx) (s : State) : Host.Outcome State Fault Refusal :=
  .next <|
    if deadlineDue s i .revoking then
      if otherLive s i then cutSlot (s.entry i).slot s
      else judgeDeficit (rebalance (retireWith (s.entry i).cause i s))
    else s

/-- The lease count of the entry runs and has reached 0 (R91). -/
def leaseDue (s : State) (i : Idx) : Bool :=
  countsLease (s.entry i).state && (s.entry i).period.isSome && leaseLeft s (s.entry i) == 0

/-- LEASE_EXPIRY: an ENABLING entry is retired (R93), a live one revoked, with no rebalance (R94). -/
def execLeaseExpiry (i : Idx) (s : State) : Host.Outcome State Fault Refusal :=
  .next <|
    if leaseDue s i then
      if (s.entry i).state = .enabling then judgeDeficit (rebalance (retireEntry .lease i s))
      else revokeEntry .lease i s
    else s

/-- The entry's lease has reached the warning point of its period for the first time (R92). -/
def warningDue (s : State) (i : Idx) : Bool :=
  countsLease (s.entry i).state &&
    match (s.entry i).period with
    | none => false
    | some p =>
      !p.warned && decide (p.warnPoint < (s.entry i).lease) && decide (leaseLeft s (s.entry i) ≤ p.warnPoint)

/-- WARNING_POINT (R92): warned is set, and a LEASE_WARN queued unless a REDUCE of the entry is pending. -/
def execWarningPoint (i : Idx) (s : State) : Host.Outcome State Fault Refusal :=
  let e := s.entry i
  .next <|
    if warningDue s i then
      let t := s.setEntry i { e with period := e.period.map fun p => { p with warned := true } }
      if e.state = .reducing ∧ noticePending s e.slot i .reduce then t else queueNotice .leaseWarn i 0 t
    else s

/-- DELIVERY_LIMIT_EXPIRY (R112): the CLOSED notice is dropped and the entry becomes FREE. -/
def execDeliveryLimitExpiry (i : Idx) (s : State) : Host.Outcome State Fault Refusal :=
  .next <|
    if deadlineDue s i .retired then judgeDeficit (rebalance (raise .noticeDrop (freeEntry i s)))
    else s

end Sys2Proof.Machine
end

