-- ==== Sys2Proof/Machine/SupplyMonitor.lean ====
section
/-! DEFINITION. The Supply Monitor (chapter 8): sampling and bands, qualification, the supply states and what each
transition hands on. -/

namespace Sys2Proof.Machine

/-- The band of a rail code by the thresholds in force (R131). -/
def bandOf (s : State) (code : BitVec 10) : Band :=
  if code.toNat < activeItem s .t1 then 0
  else if code.toNat < activeItem s .t2 then 1
  else if code.toNat < activeItem s .t3 then 2
  else 3

/-- The qualification duration of a candidate: FALLQ below the qualified band, RISEQ above it or in UNQUALIFIED (R132). -/
def qualifyItem (s : State) (b : Band) : Item :=
  match s.qualified with
  | none => .riseq
  | some q => if s.supply ≠ .unqualified ∧ b < q then .fallq else .riseq

/-- The candidate and its timer after a sample in band b (R132, Table 8-2). -/
def considerBand (b : Band) (s : State) : State :=
  if s.supply ≠ .unqualified ∧ s.qualified = some b then { s with candidate := none, qualTimer := none }
  else if s.candidate = some b then s
  else { s with candidate := some b, qualTimer := some (expiryAfter s (duration s (qualifyItem s b))) }

/-- RAIL_SAMPLE (R131, R132); no sample is taken while RSTn is held low (R141). -/
def execRailSample (code : BitVec 10) (s : State) : Host.Outcome State Fault Refusal :=
  .next (unlessReset (fun u => considerBand (bandOf u code) { u with railCode := code, sampled := bandOf u code }) s)

/-- The supply enters HOLD (R138): the hold timer starts, C stays, the slots are suspended. -/
def enterHold (s : State) : State :=
  raise .supplyChange <| suspendAll
    { s with supply := .hold, holdTimer := some (expiryAfter s (duration s .holdlim)) }

/-- The supply enters LOST (R140): every admitted entry is retired with cause SUPPLY in ascending index order, C becomes
0, and the slots are left without a need. -/
def enterLost (s : State) : State :=
  let t := retireAll .supply (entriesWhere s fun e => isAdmitted e.state)
    { s with supply := .lost, holdTimer := none, capacity := 0 }
  judgeDeficit (raise .supplyChange t)

/-- The supply enters OPERATING with band b (R137, R139): the hold timer stops, C is computed with the shed plan or
rebalance of R49, and the SUSPENDED slots restart over the entries that leaves. -/
def enterOperating (b : Band) (s : State) : State :=
  let t := { s with supply := .operating, holdTimer := none }
  judgeDeficit (raise .supplyChange (restartAll (recompute (operatingCapacity t b) t)))

/-- What a newly qualified band does to the supply state (R134, Table 8-3). Band 0 does not qualify in HOLD or LOST
(R134; assumption 17). -/
def bandQualified (b : Band) (s : State) : State :=
  match s.supply with
  | .unqualified => if b = 0 then enterLost s else enterOperating b s
  | .operating => if b = 0 then enterHold s else judgeDeficit (recompute (operatingCapacity s b) s)
  | .hold => if b = 0 then s else enterOperating b s
  | .lost => if b = 0 then s else enterOperating b s

/-- QUALIFICATION_TIMER_EXPIRY (R133). -/
def execQualificationTimerExpiry (s : State) : Host.Outcome State Fault Refusal :=
  match s.candidate with
  | none => .next s
  | some b =>
    .next <|
      if due s s.qualTimer then
        bandQualified b (raise .bandChange { s with qualified := some b, candidate := none, qualTimer := none })
      else s

/-- The hold timer has expired in HOLD. -/
def holdDue (s : State) : Bool := s.supply == .hold && due s s.holdTimer

/-- HOLD_TIMER_EXPIRY (R135). -/
def execHoldTimerExpiry (s : State) : Host.Outcome State Fault Refusal :=
  .next (if holdDue s then enterLost s else s)

end Sys2Proof.Machine
end

