-- ==== Sys2Proof/Machine/HostPort.lean ====
section
/-! DEFINITION. The Board Controller Port (chapter 10): the register window, configuration and APPLY, host commands, EVENTS
and EVMASK. -/

namespace Sys2Proof.Machine

/-! ## Results (R169) -/

/-- The command completes: CMD takes the code, RESULT the result code and value. -/
def complete (code : Byte) (r : Result) (v : Nat) (s : State) : State :=
  { s with cmd := code, result := BitVec.ofNat 16 (resultCode r * 256 + v) }

/-- The slot ARG0 names; none if the argument is above 11. -/
def argSlot (s : State) : Option Slot := if h : s.arg0.toNat < 12 then some ⟨s.arg0.toNat, h⟩ else none

/-- The entry index ARG0 names; none if the argument is above 31. -/
def argIndex (s : State) : Option Idx := if h : s.arg0.toNat < 32 then some ⟨s.arg0.toNat, h⟩ else none

/-- The tag ARG1 names; none if the argument is above 15. -/
def argTag (s : State) : Option Tag := if h : s.arg1.toNat < 16 then some ⟨s.arg1.toNat, h⟩ else none

/-- A command on the slot ARG0 names: an argument out of range gives BAD_ARG, and OK with value 0 follows the effect
(R169, R174). -/
def onSlot (code : Byte) (act : Slot → State → State) (s : State) : State :=
  match argSlot s with
  | none => complete code .badArg 0 s
  | some n => complete code .ok 0 (act n s)

/-! ## LOOKUP and FIND (R170, R171) -/

/-- Deadline remaining of the snapshot: units of 10 ms, seconds for a delivery limit, at most 255 (R170). -/
def deadlineLeft (s : State) (e : Entry) : Nat :=
  min 255 (if e.state = .retired then msLeft s e.deadline / 1000 else tensLeft s e.deadline)

/-- 1 for true, the bit of a flag in a register. -/
def bit (b : Bool) : Nat := if b then 1 else 0

/-- The snapshot of an entry (Table 10-4). -/
def snapshot (s : State) (i : Idx) : Vector Word 8 :=
  let e := s.entry i
  #v[BitVec.ofNat 16 (e.gen.toNat * 256 + deadlineLeft s e),
     BitVec.ofNat 16 (entryStateCode e.state * 4096 + e.slot.val * 256 + e.tag.val * 16 + e.cls.val * 4
       + bit e.period.isSome * 2 + bit e.deadline.isSome),
     BitVec.ofNat 16 (causeCodeOf e.cause * 4096 + e.requested),
     BitVec.ofNat 16 (positionIn s.waitQueue i * 1024 + e.floor),
     BitVec.ofNat 16 (positionIn s.admission i * 1024 + e.held),
     BitVec.ofNat 16 (i.val * 2048 + bit e.target.isSome * 1024 + e.target.getD 0),
     BitVec.ofNat 16 e.lease,
     BitVec.ofNat 16 (leaseLeft s e)]

/-- LOOKUP within the state. -/
def hostLookup (s : State) : State :=
  match argIndex s with
  | none => complete 0x01 .badArg 0 s
  | some i => complete 0x01 .ok 0 { s with snap := snapshot s i }

/-- FIND within the state. -/
def hostFind (s : State) : State :=
  match argSlot s, argTag s with
  | some n, some t =>
    match findTag s n t with
    | none => complete 0x02 .notFound 0 s
    | some i => complete 0x02 .ok i.val s
  | none, _ => complete 0x02 .badArg 0 s
  | some _, none => complete 0x02 .badArg 0 s

/-! ## RETIRE (R172) -/

/-- The host RETIRE of a named entry by its state (R172). -/
def retireNamed (i : Idx) (s : State) : State :=
  match (s.entry i).state with
  | .free => s
  | .waiting => judgeDeficit (retireEntry .host i s)
  | .offered | .enabling => judgeDeficit (rebalance (retireEntry .host i s))
  | .active | .reduced | .reducing => revokeEntry .host i s
  | .revoking => s.setEntry i { s.entry i with cause := some .host }
  | .retired => freeEntry i s

/-- RETIRE within the state. R172 and R75 give the result code of OK and NOT_FOUND and no value: the value 0 beside them is the
model's choice (assumption 24). -/
def hostRetire (s : State) : State :=
  if 31 < s.arg0.toNat ∨ 255 < s.arg1.toNat then complete 0x03 .badArg 0 s
  else match handleEntry s s.arg0.toNat s.arg1.toNat with
    | none => complete 0x03 .notFound 0 s
    | some i => complete 0x03 .ok 0 (retireNamed i s)

/-! ## PURGE (R173, R23, R114, R162) -/

/-- A slot's record after PURGE (R162). -/
def purgedRec (r : SlotRec) : SlotRec :=
  match r.state with
  | .on | .queued | .suspended => { switchedOff r with state := .idle, key := none }
  | .empty | .idle | .tripped | .blocked => r

/-- Slot Power Control's part of PURGE (R162). -/
def purgeSlots (s : State) : State :=
  { allSlots.foldl (fun t n => t.setSlot n (purgedRec (t.slotRec n))) s with inrush := [] }

/-- The Contract Table's and the Notice Unit's parts of PURGE (R23, R114). -/
def purgeContracts (s : State) : State :=
  { freeAll (entriesWhere s fun e => e.state != .free) s with
    waitQueue := [], admission := [], outboxes := Vector.replicate 12 emptyOutbox }

/-- PURGE within the state. -/
def hostPurge (s : State) : State := complete 0x04 .ok 0 (judgeDeficit (purgeSlots (purgeContracts s)))

/-! ## BLOCK, UNBLOCK, CLEAR_TRIPS (R160, R161) -/

/-- BLOCK of a slot (R160). -/
def blockSlot (n : Slot) (s : State) : State :=
  let r := s.slotRec n
  if r.state = .blocked then s
  else
    let t := leaveInrush n <|
      s.setSlot n { switchedOff r with state := .blocked, key := none, cooldown := none }
    judgeDeficit (rebalance (raise .slotBlock (retireSlot .blocked n t)))

/-- UNBLOCK of a slot (R161). -/
def unblockSlot (n : Slot) (s : State) : State :=
  let r := s.slotRec n
  if r.state = .blocked then s.setSlot n { r with trips := 0, state := if r.seated then .idle else .empty } else s

/-- CLEAR_TRIPS of a slot (R161). -/
def clearTripsOf (n : Slot) (s : State) : State := s.setSlot n { s.slotRec n with trips := 0 }

/-- BLOCK within the state. -/
def hostBlock (s : State) : State := onSlot 0x05 blockSlot s

/-- UNBLOCK within the state. -/
def hostUnblock (s : State) : State := onSlot 0x06 unblockSlot s

/-- CLEAR_TRIPS within the state. -/
def hostClearTrips (s : State) : State := onSlot 0x07 clearTripsOf s

/-! ## APPLY (R168) -/

/-- The staged register value of an item. -/
def stagedItemValue (s : State) (x : Item) : Nat := (s.staged[itemIndex x]).toNat

/-- The item fails the check of R168. -/
def itemFails (s : State) (x : Item) : Bool :=
  decide (stagedItemValue s x < itemMin x) || decide (itemMax x < stagedItemValue s x)
    || (x == .t2 && decide (stagedItemValue s .t2 ≤ stagedItemValue s .t1))
    || (x == .t3 && decide (stagedItemValue s .t3 ≤ stagedItemValue s .t2))

/-- The first failing item in register order. -/
def firstFailing (s : State) : Option Item := allItems.find? (itemFails s)

/-- The staged set comes into force; in OPERATING C is recomputed (R48, R143, R168). -/
def bringIntoForce (s : State) : State :=
  let t := { s with active := s.staged }
  match s.supply, s.qualified with
  | .operating, some b => judgeDeficit (recompute (operatingCapacity t b) t)
  | .operating, none => t
  | .unqualified, _ => t
  | .hold, _ => t
  | .lost, _ => t

/-- APPLY within the state. -/
def hostApply (s : State) : State :=
  match firstFailing s with
  | some x => complete 0x08 .invalid (0x40 + (itemIndex x).val) s
  | none => complete 0x08 .ok 0 (bringIntoForce s)

/-! ## Register writes (R164, R169, R175, R176) -/

/-- A write to CMD: the command of the low byte is executed (R169). -/
def runCommand (code : Byte) (s : State) : State :=
  if code = 0x01 then hostLookup s else if code = 0x02 then hostFind s else if code = 0x03 then hostRetire s
  else if code = 0x04 then hostPurge s else if code = 0x05 then hostBlock s else if code = 0x06 then hostUnblock s
  else if code = 0x07 then hostClearTrips s else if code = 0x08 then hostApply s
  else complete code .badArg 0 s

/-- EVMASK takes the value; its bits 15 to 10 read as 0 (R164, R176). -/
def setEvmask (v : Word) (s : State) : State := { s with evmask := v.setWidth 10 }

/-- A write frame to a register number (R164). -/
def writeRegister (r : BitVec 7) (v : Word) (s : State) : State :=
  if h : 0x40 ≤ r.toNat ∧ r.toNat ≤ 0x54 then
    { s with staged := s.staged.set (r.toNat - 0x40) v (by omega) }
  else if r = 0x0A then { s with arg0 := v }
  else if r = 0x0B then { s with arg1 := v }
  else if r = 0x07 then clearFlags v s
  else if r = 0x08 then setEvmask v s
  else if r = 0x09 then runCommand (v.setWidth 8) s
  else s

/-! ## The register window as it reads (R163 to R166) -/

/-- STATUS (Table 10-2). -/
def statusReg (s : State) : Word :=
  BitVec.ofNat 16 (supplyCode s.supply * 16384 + (s.qualified.getD 0).val * 4096 + bit s.qualified.isSome * 2048
    + s.sampled.val * 512 + bit s.deficit * 256 + bit (windowValid s) * 128 + s.straps.toNat * 16)

/-- COUNTS: WAITING count and FREE count (Table 10-1). -/
def countsReg (s : State) : Word :=
  BitVec.ofNat 16 (waitingCount s * 256 + countWhere s fun e => e.state == .free)

/-- SLOTn (Table 10-2). -/
def slotReg (s : State) (n : Slot) : Word :=
  BitVec.ofNat 16 (slotStateCode (s.slotRec n).state * 8192 + (s.slotRec n).trips * 512
    + countWhere s (ofSlotIn n isLive) * 64 + countWhere s (ofSlotIn n fun st => st == .enabling) * 8
    + (s.outbox n).notices.length)

/-- The value a read of a register number returns (R164, Table 10-1). A read changes no state. -/
def readRegister (s : State) (r : BitVec 7) : Word :=
  if r = 0x00 then 0x4B32
  else if r = 0x01 then statusReg s
  else if r = 0x02 then s.railCode.setWidth 16
  else if r = 0x03 then BitVec.ofNat 16 s.capacity
  else if r = 0x04 then BitVec.ofNat 16 (heldTotal s)
  else if r = 0x05 then BitVec.ofNat 16 (pendingTotal s)
  else if r = 0x06 then countsReg s
  else if r = 0x07 then s.events.setWidth 16
  else if r = 0x08 then s.evmask.setWidth 16
  else if r = 0x09 then s.cmd.setWidth 16
  else if r = 0x0A then s.arg0
  else if r = 0x0B then s.arg1
  else if r = 0x0C then s.result
  else if h : 0x10 ≤ r.toNat ∧ r.toNat ≤ 0x17 then s.snap[r.toNat - 0x10]'(by omega)
  else if h : 0x20 ≤ r.toNat ∧ r.toNat ≤ 0x2B then slotReg s ⟨r.toNat - 0x20, by omega⟩
  else if h : 0x40 ≤ r.toNat ∧ r.toNat ≤ 0x54 then s.staged[r.toNat - 0x40]'(by omega)
  else if h : 0x60 ≤ r.toNat ∧ r.toNat ≤ 0x74 then s.active[r.toNat - 0x60]'(by omega)
  else 0

/-! ## The commands

While RSTn is held low the port takes no frame and executes no command (R177). -/

/-- LOOKUP (R170). -/
def execLookup (s : State) : Host.Outcome State Fault Refusal := .next (unlessReset hostLookup s)

/-- FIND (R171). -/
def execFind (s : State) : Host.Outcome State Fault Refusal := .next (unlessReset hostFind s)

/-- RETIRE (R172). -/
def execRetire (s : State) : Host.Outcome State Fault Refusal := .next (unlessReset hostRetire s)

/-- PURGE (R173). -/
def execPurge (s : State) : Host.Outcome State Fault Refusal := .next (unlessReset hostPurge s)

/-- BLOCK (R160). -/
def execBlock (s : State) : Host.Outcome State Fault Refusal := .next (unlessReset hostBlock s)

/-- UNBLOCK (R161). -/
def execUnblock (s : State) : Host.Outcome State Fault Refusal := .next (unlessReset hostUnblock s)

/-- CLEAR_TRIPS (R161). -/
def execClearTrips (s : State) : Host.Outcome State Fault Refusal := .next (unlessReset hostClearTrips s)

/-- APPLY (R168). -/
def execApply (s : State) : Host.Outcome State Fault Refusal := .next (unlessReset hostApply s)

/-- UNKNOWN_COMMAND (R169): BAD_ARG and no other change. A known code is the command itself (assumption 14). -/
def execUnknownCommand (code : Byte) (s : State) : Host.Outcome State Fault Refusal := .next (unlessReset (runCommand code) s)

/-- EVENTS_WRITE (R175). -/
def execEventsWrite (v : Word) (s : State) : Host.Outcome State Fault Refusal := .next (unlessReset (clearFlags v) s)

/-- EVMASK_WRITE (R176). -/
def execEvmaskWrite (v : Word) (s : State) : Host.Outcome State Fault Refusal := .next (unlessReset (setEvmask v) s)

/-- REGISTER_WRITE (R164): a staged item or an argument takes the value; read-only and unlisted registers take nothing.
The registers with a row of their own act as that row (assumption 14). -/
def execRegisterWrite (r : BitVec 7) (v : Word) (s : State) : Host.Outcome State Fault Refusal :=
  .next (unlessReset (writeRegister r v) s)

end Sys2Proof.Machine
end

