-- ==== Sys2Proof/Machine/SpiPort.lean ====
section
/-! DEFINITION. The SPI frame (R163, R177): CSn, SCK and SDI as they change, the value captured at the eighth bit, and SDO. -/

namespace Sys2Proof.Machine

/-- SCK rises: SDI is sampled. At the eighth bit the addressed register is captured (R163). -/
def sampleSdi (s : State) : Frame :=
  match s.frame with
  | .closed => .closed
  | .missed edges => .missed edges
  | .command bits =>
    let taken := bits ++ [s.pins.sdi]
    if taken.length < 8 then .command taken
    else .data (byteOf taken) (readRegister s ((byteOf taken).setWidth 7)) []
  | .data command captured bits => .data command captured (bits ++ [s.pins.sdi])

/-- The frame after a change of SCK to a level: a fall samples nothing; in a frame that is not taken the change is counted for
the free value (assumption 23). -/
def frameAfterSck (high : Bool) (s : State) : Frame :=
  match s.frame with
  | .missed edges => .missed (edges + 1)
  | .closed | .command _ | .data _ _ _ => if high then sampleSdi s else s.frame

/-- A change of SCK. -/
def moveSck (high : Bool) (s : State) : State :=
  if high = s.pins.sck then s
  else { s with pins := { s.pins with sck := high }, frame := frameAfterSck high s }

/-- The end of a frame: a write frame of exactly 24 bits is taken, and every other frame changes nothing (R163). -/
def endFrame (f : Frame) (s : State) : State :=
  match f with
  | .data command _ bits =>
    if bits.length = 16 ∧ command.msb = false then
      writeRegister (command.setWidth 7) (BitVec.ofNat 16 (bitsValue bits)) s
    else s
  | .closed | .missed _ | .command _ => s

/-- A change of CSn: a fall begins a frame and a rise ends it (R163). -/
def moveCsn (high : Bool) (s : State) : State :=
  if high = s.pins.csn then s
  else if high then endFrame s.frame { s with pins := { s.pins with csn := true }, frame := .closed }
  else { s with pins := { s.pins with csn := false }, frame := .command [] }

/-- The level of SDO, none for high impedance: low during the command byte; from the fall of SCK after the eighth bit the
captured value, most significant bit first, a bit at each fall, and 0 beyond it (R163). -/
def sdo (s : State) : Option Bool :=
  match s.frame with
  | .closed => none
  | .missed edges => Config.untakenSdo s.now edges
  | .command _ => some false
  | .data _ captured bits =>
    let falls := if s.pins.sck then bits.length else bits.length + 1
    some (decide (1 ≤ falls ∧ falls ≤ 16) && captured.getLsbD (16 - falls))

/-! ## Device reset (R22, R61, R100, R116, R129, R141, R144, R177) -/

/-- Every block in its reset state, with the strap value k. The pins, the changes of them that wait, the queue and the counter of
free choices are no state of the part and stay (assumption 13). -/
def resetBlocks (k : BitVec 3) (s : State) : State :=
  { State.resetWith k with pending := s.pending, ties := s.ties, pins := s.pins, wires := s.wires }

/-- RSTn falls: every block is in its reset state while RSTn is held low, and a frame or a transaction in progress is lost
(R129, R177). -/
def beginReset (s : State) : State := { resetBlocks s.straps s with inReset := true }

/-- RSTn rises: the straps are latched (R116), and a frame whose CSn fall came before is not taken (R177). -/
def endReset (k : BitVec 3) (s : State) : State :=
  { resetBlocks k s with frame := if s.pins.csn then .closed else .missed 0 }

/-- DEVICE_RESET: power-on, or RSTn held low and released with the strap levels k (assumption 13). -/
def execDeviceReset (k : BitVec 3) (s : State) : Host.Outcome State Fault Refusal := .next (endReset k s)

end Sys2Proof.Machine
end

