-- ==== Sys2Proof/Machine/TimeBase.lean ====
section
/-! DEFINITION. What happens when no command waits: a pin change that waits is taken (assumption 20); then the Time Base runs
(assumptions 1 and 2), which takes an event that is due into the queue and otherwise passes to the next instant. -/

namespace Sys2Proof.Machine

/-- The command if its condition holds. -/
def eventIf (p : Bool) (c : Instr) : List Instr := if p then [c] else []

/-- The events of a slot's timers that are due. -/
def slotEventsDue (s : State) (n : Slot) : List Instr :=
  eventIf (due s (s.slotRec n).presence) (.presenceTimerExpiry n)
    ++ eventIf (due s (s.slotRec n).blanking) (.blankingTimerExpiry n)
    ++ eventIf (tripDue s n) (.trip n)
    ++ eventIf (cooldownDue s n) (.cooldownExpiry n)
    ++ eventIf (due s (s.slotRec n).stable) (.stableTimerExpiry n)

/-- The events of an entry's timers that are due. -/
def entryEventsDue (s : State) (i : Idx) : List Instr :=
  eventIf (deadlineDue s i .offered) (.offerWindowExpiry i)
    ++ eventIf (deadlineDue s i .reducing) (.reduceGraceExpiry i)
    ++ eventIf (deadlineDue s i .revoking) (.revokeGraceExpiry i)
    ++ eventIf (deadlineDue s i .retired) (.deliveryLimitExpiry i)
    ++ eventIf (leaseDue s i) (.leaseExpiry i)
    ++ eventIf (warningDue s i) (.warningPoint i)

/-- Every event of the part's own timers that is due at the present instant, and the turn-on of R152 if its conditions
hold. The samples of RAIL, PRS and FLT come as commands alone (assumption 4). -/
def eventsDue (s : State) : List Instr :=
  eventIf (s.candidate.isSome && due s s.qualTimer) .qualificationTimerExpiry
    ++ eventIf (holdDue s) .holdTimerExpiry
    ++ (s.stallTimer.toList.filter (stallDue s)).map .stallTimerExpiry
    ++ allSlots.flatMap (slotEventsDue s)
    ++ allIdx.flatMap (entryEventsDue s)
    ++ eventIf (turnOnDue s) .turnOn

/-- The event taken next among several due: any of them may be first (assumption 2). -/
def chooseEvent (s : State) (first : Instr) (rest : List Instr) : Instr :=
  match rest with
  | [] => first
  | _ :: _ => (first :: rest).getD (Config.tieBreak s.ties % (first :: rest).length) first

/-- The levels of the port pins after a change. -/
def levelsAfter (w : Wire) (p : Pins) : Pins :=
  match w with
  | .scl high => { p with scl := high }
  | .sda high => { p with sda := high }
  | .csn high => { p with csn := high }
  | .sck high => { p with sck := high }
  | .sdi high => { p with sdi := high }
  | .rstnLow | .rstnHigh _ => p

/-- A change of a pin while RSTn is held low: the ports ignore it (R129, R177), and the rise of RSTn ends the reset. -/
def takeWireInReset (w : Wire) (s : State) : State :=
  match w with
  | .rstnHigh k => endReset k s
  | .scl _ | .sda _ | .csn _ | .sck _ | .sdi _ | .rstnLow => { s with pins := levelsAfter w s.pins }

/-- A change of a pin while the part runs (R118, R163); the fall of RSTn begins device reset. -/
def takeWireRunning (w : Wire) (s : State) : State :=
  match w with
  | .scl high => moveScl high s
  | .sda high => moveSda high s
  | .csn high => moveCsn high s
  | .sck high => moveSck high s
  | .sdi _ => { s with pins := levelsAfter w s.pins }
  | .rstnLow => beginReset s
  | .rstnHigh _ => s

/-- A change of one pin. -/
def takeWire (w : Wire) (s : State) : State := if s.inReset then takeWireInReset w s else takeWireRunning w s

/-- The Time Base: an event that is due comes to the front of the queue, or time passes. -/
def passTime (s : State) : State :=
  match eventsDue s with
  | [] => { s with now := s.now + 1 }
  | first :: rest => { s with pending := [chooseEvent s first rest], ties := s.ties + 1 }

/-- The step on an empty queue. -/
def idle (s : State) : State :=
  match s.wires with
  | [] => passTime s
  | w :: rest => takeWire w { s with wires := rest }

end Sys2Proof.Machine
end

