-- ==== Sys2Proof/Machine/Dispatch.lean ====
section
/-! DEFINITION. The meaning of each command. -/

namespace Sys2Proof.Machine

def exec (i : Instr) (s : State) : Host.Outcome State Fault Refusal :=
  match i with
  | .claim n body e => Sys2Proof.Machine.execClaim n body e s
  | .confirm n body e => Sys2Proof.Machine.execConfirm n body e s
  | .adjust n body e => Sys2Proof.Machine.execAdjust n body e s
  | .comply n body e => Sys2Proof.Machine.execComply n body e s
  | .renew n body e => Sys2Proof.Machine.execRenew n body e s
  | .release n body e => Sys2Proof.Machine.execRelease n body e s
  | .query n body e => Sys2Proof.Machine.execQuery n body e s
  | .refusedMessage n msg e => Sys2Proof.Machine.execRefusedMessage n msg e s
  | .writeDiscarded n why e => Sys2Proof.Machine.execWriteDiscarded n why e s
  | .readStaging a => Sys2Proof.Machine.execReadStaging a s
  | .readEnd acks e => Sys2Proof.Machine.execReadEnd acks e s
  | .stallTimerExpiry tick => Sys2Proof.Machine.execStallTimerExpiry tick s
  | .railSample code => Sys2Proof.Machine.execRailSample code s
  | .qualificationTimerExpiry => Sys2Proof.Machine.execQualificationTimerExpiry s
  | .holdTimerExpiry => Sys2Proof.Machine.execHoldTimerExpiry s
  | .presenceSample n high => Sys2Proof.Machine.execPresenceSample n high s
  | .presenceTimerExpiry n => Sys2Proof.Machine.execPresenceTimerExpiry n s
  | .faultSample n high => Sys2Proof.Machine.execFaultSample n high s
  | .blankingTimerExpiry n => Sys2Proof.Machine.execBlankingTimerExpiry n s
  | .trip n => Sys2Proof.Machine.execTrip n s
  | .cooldownExpiry n => Sys2Proof.Machine.execCooldownExpiry n s
  | .stableTimerExpiry n => Sys2Proof.Machine.execStableTimerExpiry n s
  | .turnOn => Sys2Proof.Machine.execTurnOn s
  | .offerWindowExpiry j => Sys2Proof.Machine.execOfferWindowExpiry j s
  | .reduceGraceExpiry j => Sys2Proof.Machine.execReduceGraceExpiry j s
  | .revokeGraceExpiry j => Sys2Proof.Machine.execRevokeGraceExpiry j s
  | .leaseExpiry j => Sys2Proof.Machine.execLeaseExpiry j s
  | .warningPoint j => Sys2Proof.Machine.execWarningPoint j s
  | .deliveryLimitExpiry j => Sys2Proof.Machine.execDeliveryLimitExpiry j s
  | .lookup => Sys2Proof.Machine.execLookup s
  | .find => Sys2Proof.Machine.execFind s
  | .retire => Sys2Proof.Machine.execRetire s
  | .purge => Sys2Proof.Machine.execPurge s
  | .block => Sys2Proof.Machine.execBlock s
  | .unblock => Sys2Proof.Machine.execUnblock s
  | .clearTrips => Sys2Proof.Machine.execClearTrips s
  | .apply => Sys2Proof.Machine.execApply s
  | .unknownCommand code => Sys2Proof.Machine.execUnknownCommand code s
  | .eventsWrite v => Sys2Proof.Machine.execEventsWrite v s
  | .evmaskWrite v => Sys2Proof.Machine.execEvmaskWrite v s
  | .registerWrite r v => Sys2Proof.Machine.execRegisterWrite r v s
  | .deviceReset k => Sys2Proof.Machine.execDeviceReset k s

end Sys2Proof.Machine
end

