-- ==== Sys2Proof/Safety.lean ====
section
/-! DEFINITION. What counts as a safe run: the properties of a state that the spec gives for every moment. `Inv` gathers them;
the statements say that every step keeps each group. -/

namespace Sys2Proof.Machine

/-- The fields of an entry by its state (R2 to R6, Tables 1-1 and 1-2). -/
def EntryOk (e : Entry) : Prop :=
  (e.state = .free → e = { blankEntry with gen := e.gen })
  ∧ (e.state ≠ .free → 1 ≤ e.floor ∧ e.floor ≤ e.requested ∧ e.requested ≤ 1023)
  ∧ (isAdmitted e.state = true → e.floor ≤ e.held ∧ e.held ≤ e.requested)
  ∧ (isAdmitted e.state = false → e.held = 0)
  ∧ (e.state = .active → e.held = e.requested)
  ∧ (e.state = .reduced → e.held < e.requested)
  ∧ (e.state = .reducing → e.floor ≤ e.target.getD 0 ∧ e.target.getD 0 < e.held)
  ∧ (e.target.isSome = true ↔ e.state = .reducing)
  ∧ (e.cause.isSome = true ↔ e.state = .revoking ∨ e.state = .retired)
  ∧ (e.deadline.isSome = true ↔ e.state = .offered ∨ e.state = .reducing ∨ e.state = .revoking ∨ e.state = .retired)
  ∧ (e.period.isSome = true ↔ countsLease e.state = true ∧ e.lease ≠ 0)
  ∧ e.lease ≤ 65535

/-- Every entry has the fields of its state. -/
def EntriesOk (s : State) : Prop := ∀ i : Idx, EntryOk (s.entry i)

/-- The two lists hold exactly the entries they must, each once, and the Wait Queue is in class order (R7, R18, R20, R32). -/
def ListsOk (s : State) : Prop :=
  s.waitQueue.Nodup ∧ s.admission.Nodup
  ∧ (∀ i : Idx, i ∈ s.waitQueue ↔ (s.entry i).state = .waiting)
  ∧ (∀ i : Idx, i ∈ s.admission ↔ isAdmitted (s.entry i).state = true)
  ∧ s.waitQueue.Pairwise (fun i j => (s.entry j).cls ≤ (s.entry i).cls)

/-- No slot has more than four non-FREE entries, and no two non-FREE entries share slot and tag (R16, R17). -/
def SlotLimits (s : State) : Prop :=
  (∀ n : Slot, countWhere s (ofSlot n) ≤ 4)
  ∧ (∀ i j : Idx, (s.entry i).state ≠ .free → (s.entry j).state ≠ .free → (s.entry i).slot = (s.entry j).slot →
      (s.entry i).tag = (s.entry j).tag → i = j)

/-- H − P never exceeds C, and the deficit flag is H > C (R52, R54). -/
def BudgetOk (s : State) : Prop :=
  heldTotal s ≤ pendingTotal s + s.capacity ∧ (s.deficit = true ↔ s.capacity < heldTotal s)

/-- The configuration in force lies in its ranges, and T1 < T2 < T3 (R131, R168). -/
def ConfigOk (s : State) : Prop :=
  (∀ x ∈ allItems, itemMin x ≤ activeItem s x ∧ activeItem s x ≤ itemMax x)
  ∧ activeItem s .t1 < activeItem s .t2 ∧ activeItem s .t2 < activeItem s .t3

/-- Supply state, bands and timers agree, and the entries a supply state allows (R132 to R135, R140). -/
def SupplyOk (s : State) : Prop :=
  (s.supply = .unqualified ↔ s.qualified = none)
  ∧ (s.supply = .operating ↔ s.qualified.isSome = true ∧ s.qualified ≠ some 0)
  ∧ (s.holdTimer.isSome = true ↔ s.supply = .hold)
  ∧ (s.candidate.isSome = true ↔ s.qualTimer.isSome = true)
  ∧ (s.candidate.isSome = true → s.candidate ≠ s.qualified)

/-- C by supply state and within its range, and no admitted entry without a supply (Table 3-1, R47, R140). -/
def CapacityOk (s : State) : Prop :=
  s.capacity ≤ 4095
  ∧ (s.supply = .unqualified ∨ s.supply = .lost → s.capacity = 0 ∧ ∀ i : Idx, isAdmitted (s.entry i).state = false)
  ∧ (s.supply = .operating → s.capacity = operatingCapacity s (s.qualified.getD 0))

/-- A slot's record by its state, and its need (R144, R145, Table 9-2). -/
def SlotOk (s : State) (n : Slot) : Prop :=
  let r := s.slotRec n
  (r.switch = true ↔ r.state = .on)
  ∧ (r.key.isSome = true ↔ r.state = .queued)
  ∧ (n ∈ s.inrush ↔ r.state = .queued)
  ∧ (hasNeed s n = true ↔ r.state = .queued ∨ r.state = .on ∨ r.state = .suspended)
  ∧ (r.state = .on → ∀ i : Idx, (s.entry i).slot = n → (s.entry i).state ≠ .enabling)
  ∧ (r.seated = false → r.state = .empty ∨ r.state = .blocked)
  ∧ (r.state = .empty → r.seated = false)
  ∧ (r.seated = false → ∀ i : Idx, ofSlot n (s.entry i) = false)
  ∧ (r.state = .tripped ∨ r.state = .blocked → ∀ i : Idx, ofSlotIn n isStanding (s.entry i) = false)
  ∧ (r.blanking.isSome = true ∨ r.fault.isSome = true ∨ r.stable.isSome = true → r.state = .on)
  ∧ (r.cooldown.isSome = true ↔ r.state = .tripped)
  ∧ r.trips ≤ 15 ∧ (r.state ≠ .blocked → r.trips ≤ 14)
  ∧ (r.state = .on ∨ r.state = .queued → s.supply = .operating)
  ∧ (r.state = .suspended → s.supply = .hold)

/-- Every slot is in order, and the Inrush Queue holds each slot once, by class key (R145, R151). -/
def SlotsOk (s : State) : Prop :=
  (∀ n : Slot, SlotOk s n) ∧ s.inrush.Nodup
  ∧ s.inrush.Pairwise (fun m n => (s.slotRec n).key.getD 0 ≤ (s.slotRec m).key.getD 0)

/-- The entry state a pending notice of a kind needs, and the level it fixes (Table 6-2, R106). -/
def noticeFits (e : Entry) (x : Notice) : Prop :=
  match x.kind with
  | .offer => e.state = .offered ∧ x.level = e.held
  | .recall => e.state = .waiting ∧ x.level = 0
  | .reduce => e.state = .reducing ∧ e.target = some x.level
  | .restore => (e.state = .active ∨ e.state = .reduced) ∧ x.level = e.held
  | .revoke => e.state = .revoking ∧ x.level = 0
  | .closed => e.state = .retired ∧ x.level = 0
  | .leaseWarn => countsLease e.state = true ∧ e.period.isSome = true ∧ x.level = 0

/-- A slot's queue: one notice per entry, each of a non-FREE entry of the slot in the state its kind needs, and each item
with an identity of its own (R102, R105 to R107, R109). -/
def OutboxOk (s : State) (n : Slot) : Prop :=
  (s.outbox n).notices.Pairwise (fun x y => x.index ≠ y.index ∧ x.id ≠ y.id)
  ∧ (∀ x ∈ (s.outbox n).notices,
      (s.entry x.index).slot = n ∧ x.gen = (s.entry x.index).gen ∧ x.tag = (s.entry x.index).tag ∧ x.id < s.nextItem
        ∧ noticeFits (s.entry x.index) x)
  ∧ (∀ r ∈ (s.outbox n).reply, r.id < s.nextItem)

/-- Every outbox is in order, and every RETIRED entry has its CLOSED notice pending (R107). -/
def NoticesOk (s : State) : Prop :=
  (∀ n : Slot, OutboxOk s n)
  ∧ (∀ i : Idx, (s.entry i).state = .retired → noticePending s (s.entry i).slot i .closed = true)

/-- The state of the interface holds what Table 7-2 gives it: a buffer of at most 16 bytes or a record of 12, of which at most 12
are transferred, and only with a valid window does it take part in a transaction (R117 to R119, R125, R126). -/
def BusHolds (s : State) : Prop :=
  match s.bus with
  | .receive _ buffer => buffer.length ≤ 16
  | .send record _ sent _ => record.length = 12 ∧ sent ≤ 12
  | .idle | .passive => s.bits = []
  | .address | .overrun _ => True

/-- The frame agrees with CSn and RSTn, and its command byte is not yet complete while it is being sampled (R163, R177). -/
def FrameOk (s : State) : Prop :=
  (s.frame = .closed ↔ s.pins.csn = true ∨ s.inReset = true) ∧ ∀ bits, s.frame = .command bits → bits.length < 8

/-- The two ports: at most eight bits of a byte are held; a sampled level is held only while SCL is high; the stall timer runs
exactly while the interface takes part in a transaction with SCL low (R118, R128). -/
def PortsOk (s : State) : Prop :=
  BusHolds s ∧ s.bits.length ≤ 8
  ∧ (takesPart s.bus = true → windowValid s = true)
  ∧ (s.clock.isSome = true → s.pins.scl = true)
  ∧ (s.stallTimer.isSome = true ↔ takesPart s.bus = true ∧ s.pins.scl = false)
  ∧ FrameOk s

/-- While RSTn is held low every block stays in its reset state, with the strap value it had (R22, R116). -/
def ResetOk (s : State) : Prop :=
  s.inReset = true →
    s = { State.resetWith s.straps with
          pending := s.pending, now := s.now, ties := s.ties, pins := s.pins, wires := s.wires, inReset := true }

/-- A running timer's expiry instant has not been passed (R1). -/
def Ahead (s : State) (t : Option Nat) : Prop := ∀ x ∈ t, s.now ≤ 2 * x

/-- The instants at which an entry's timers act have not been passed (R1, R91, R92). -/
def EntryAhead (s : State) (e : Entry) : Prop :=
  Ahead s e.deadline
  ∧ (∀ p ∈ e.period, s.now ≤ 2 * (p.start + 1000 * e.lease)
      ∧ (p.warned = false → p.warnPoint < e.lease → s.now ≤ 2 * (p.start + 1000 * (e.lease - p.warnPoint))))

/-- No timer is overdue (R1). -/
def TimersOk (s : State) : Prop :=
  (∀ i : Idx, EntryAhead s (s.entry i))
  ∧ (∀ n : Slot, Ahead s (s.slotRec n).presence ∧ Ahead s (s.slotRec n).blanking ∧ Ahead s (s.slotRec n).fault
      ∧ Ahead s (s.slotRec n).stable ∧ Ahead s (s.slotRec n).cooldown)
  ∧ Ahead s s.qualTimer ∧ Ahead s s.holdTimer ∧ Ahead s s.stallTimer
  ∧ (∀ t ∈ s.lastOn, 2 * t ≤ s.now)

/-- The invariant of the block. -/
structure Inv (s : State) : Prop where
  entries : EntriesOk s
  lists : ListsOk s
  limits : SlotLimits s
  config : ConfigOk s
  supply : SupplyOk s
  capacity : CapacityOk s
  budget : BudgetOk s
  slots : SlotsOk s
  notices : NoticesOk s
  timers : TimersOk s
  ports : PortsOk s
  reset : ResetOk s

end Sys2Proof.Machine
end

