-- ==== Sys2Proof/Vocabulary.lean ====
section
/-! DEFINITION. Words the statements use: what a decision of the part can touch, and when a message is taken. -/

namespace Sys2Proof.Machine

/-! ## What can have changed from s to t -/

/-- Only the Contract Table, the outboxes and the slots have changed: the supply, the totals held by the Budget Account, the
configuration, the registers, the interface, the flags and the time are as they were. -/
structure ContractsOnly (s t : State) : Prop where
  pending : t.pending = s.pending
  now : t.now = s.now
  ties : t.ties = s.ties
  capacity : t.capacity = s.capacity
  deficit : t.deficit = s.deficit
  straps : t.straps = s.straps
  bus : t.bus = s.bus
  bits : t.bits = s.bits
  clock : t.clock = s.clock
  stallTimer : t.stallTimer = s.stallTimer
  railCode : t.railCode = s.railCode
  sampled : t.sampled = s.sampled
  qualified : t.qualified = s.qualified
  candidate : t.candidate = s.candidate
  qualTimer : t.qualTimer = s.qualTimer
  supply : t.supply = s.supply
  holdTimer : t.holdTimer = s.holdTimer
  lastOn : t.lastOn = s.lastOn
  staged : t.staged = s.staged
  active : t.active = s.active
  events : t.events = s.events
  evmask : t.evmask = s.evmask
  cmd : t.cmd = s.cmd
  arg0 : t.arg0 = s.arg0
  arg1 : t.arg1 = s.arg1
  result : t.result = s.result
  snap : t.snap = s.snap
  frame : t.frame = s.frame
  inReset : t.inReset = s.inReset
  pins : t.pins = s.pins
  wires : t.wires = s.wires

/-- As ContractsOnly, but the deficit flag and the event flags may have changed too. -/
structure DecisionsOnly (s t : State) : Prop where
  pending : t.pending = s.pending
  now : t.now = s.now
  ties : t.ties = s.ties
  capacity : t.capacity = s.capacity
  straps : t.straps = s.straps
  bus : t.bus = s.bus
  bits : t.bits = s.bits
  clock : t.clock = s.clock
  stallTimer : t.stallTimer = s.stallTimer
  railCode : t.railCode = s.railCode
  sampled : t.sampled = s.sampled
  qualified : t.qualified = s.qualified
  candidate : t.candidate = s.candidate
  qualTimer : t.qualTimer = s.qualTimer
  supply : t.supply = s.supply
  holdTimer : t.holdTimer = s.holdTimer
  lastOn : t.lastOn = s.lastOn
  staged : t.staged = s.staged
  active : t.active = s.active
  evmask : t.evmask = s.evmask
  cmd : t.cmd = s.cmd
  arg0 : t.arg0 = s.arg0
  arg1 : t.arg1 = s.arg1
  result : t.result = s.result
  snap : t.snap = s.snap
  frame : t.frame = s.frame
  inReset : t.inReset = s.inReset
  pins : t.pins = s.pins
  wires : t.wires = s.wires

/-- What the loss of entry i's need does to its slot (R150), s being before the event and t after: an ON slot left with no live
entry, and a QUEUED or SUSPENDED one left with no ENABLING and no live entry, turns off, leaves the Inrush Queue and is IDLE;
every other slot is as it was. -/
def NeedLost (s t : State) (i : Idx) : Prop :=
  let n := (s.entry i).slot
  let others := fun p : EntryState → Bool => ∃ j : Idx, j ≠ i ∧ (s.entry j).slot = n ∧ p (s.entry j).state = true
  let gone := needsPower (s.entry i).state = true
    ∧ ((s.slotRec n).state = .on ∧ ¬ others isLive
      ∨ ((s.slotRec n).state = .queued ∨ (s.slotRec n).state = .suspended) ∧ ¬ others needsPower)
  (∀ m : Slot, m ≠ n → t.slotRec m = s.slotRec m)
  ∧ (gone →
      t.slotRec n = { s.slotRec n with state := .idle, switch := false, key := none, blanking := none, fault := none,
                                       stable := none }
      ∧ t.inrush = s.inrush.filter (· != n))
  ∧ (¬ gone → t.slotRec n = s.slotRec n ∧ t.inrush = s.inrush)

/-! ## Messages -/

/-- The rows of the bus that are a transaction from its START. -/
def opensTransaction : Instr → Bool
  | .claim _ _ _ | .confirm _ _ _ | .adjust _ _ _ | .comply _ _ _ | .renew _ _ _ | .release _ _ _ | .query _ _ _ => true
  | .refusedMessage _ _ _ | .writeDiscarded _ _ _ | .readStaging _ => true
  | _ => false

/-- The part is out of device reset, the window is valid and the message passes steps 1 and 3 to 6 of the request validation
order (Table 7-3; the row fixes the kind, step 2). -/
structure Passes (s : State) (k : Kind) (n : Slot) (msg : List Byte) : Prop where
  running : s.inReset = false
  window : windowValid s = true
  check : checkOk s.straps n msg = true
  length : msg.length = kindLength k
  fields : fieldsInRange k msg = true
  seated : (s.slotRec n).seated = true
  slot : k = .claim → (s.slotRec n).state ≠ .blocked ∧ (s.slotRec n).state ≠ .tripped

/-- The handle of the message, its index and generation bytes, names entry i, and i belongs to slot n (R13). -/
structure NamesEntry (s : State) (n : Slot) (msg : List Byte) (i : Idx) : Prop where
  index : (byteAt msg 1).toNat = i.val
  alive : (s.entry i).state ≠ .free
  generation : (s.entry i).gen = byteAt msg 2
  slot : (s.entry i).slot = n

/-- No FREE entry has a lower index. -/
def LowestFree (s : State) (i : Idx) : Prop :=
  (s.entry i).state = .free ∧ ∀ j : Idx, j < i → (s.entry j).state ≠ .free

/-- The conditions of the admission test (R27). -/
def WouldOffer (s : State) (c : Class) (floor : Nat) : Prop :=
  s.supply = .operating ∧ (∀ j : Idx, (s.entry j).state = .waiting → (s.entry j).cls < c) ∧ floor ≤ headroom s

/-- Slot n holds a non-FREE entry with the tag. -/
def HoldsTag (s : State) (n : Slot) (t : Tag) : Prop :=
  ∃ i : Idx, (s.entry i).state ≠ .free ∧ (s.entry i).slot = n ∧ (s.entry i).tag = t

end Sys2Proof.Machine
end

