-- ==== Sys2Proof/WellFormed.lean ====
section
/-! DEFINITION. Which terms of Instr are commands the outside can give: a message fits the receive buffer (R119), a
REFUSED_MESSAGE holds at least one byte, UNKNOWN_COMMAND carries no known code (R169), and REGISTER_WRITE names none of the
registers that have a row of their own (R164). -/

namespace Sys2Proof

/-- The bytes of a message row fit the 16-byte receive buffer, the kind byte counted (R119). -/
def bodyFits (body : List Byte) : Bool := decide (body.length ≤ 15)

/-- The check of a command's operands. -/
def Instr.wellFormed : Instr → Bool
  | .claim _ body _ => bodyFits body
  | .confirm _ body _ => bodyFits body
  | .adjust _ body _ => bodyFits body
  | .comply _ body _ => bodyFits body
  | .renew _ body _ => bodyFits body
  | .release _ body _ => bodyFits body
  | .query _ body _ => bodyFits body
  | .refusedMessage _ msg _ => decide (1 ≤ msg.length ∧ msg.length ≤ 16)
  | .writeDiscarded _ _ _ => true
  | .readStaging _ => true
  | .readEnd _ _ => true
  | .stallTimerExpiry _ => true
  | .railSample _ => true
  | .qualificationTimerExpiry => true
  | .holdTimerExpiry => true
  | .presenceSample _ _ => true
  | .presenceTimerExpiry _ => true
  | .faultSample _ _ => true
  | .blankingTimerExpiry _ => true
  | .trip _ => true
  | .cooldownExpiry _ => true
  | .stableTimerExpiry _ => true
  | .turnOn => true
  | .offerWindowExpiry _ => true
  | .reduceGraceExpiry _ => true
  | .revokeGraceExpiry _ => true
  | .leaseExpiry _ => true
  | .warningPoint _ => true
  | .deliveryLimitExpiry _ => true
  | .lookup => true
  | .find => true
  | .retire => true
  | .purge => true
  | .block => true
  | .unblock => true
  | .clearTrips => true
  | .apply => true
  | .unknownCommand code => decide (code = 0 ∨ 8 < code.toNat)
  | .eventsWrite _ => true
  | .evmaskWrite _ => true
  | .registerWrite r _ => decide (r ≠ 0x07 ∧ r ≠ 0x08 ∧ r ≠ 0x09)
  | .deviceReset _ => true

end Sys2Proof
end

