-- ==== Sys2Proof/Certificates/Slice0/Obligations.lean ====
section
/-! DEFINITION. The statements about the FK1232. -/

section

open Sys2Proof Sys2Proof.Machine

/-! ## The step -/

/-- A step with a command at the front of the queue is that command executed on the queue's rest. -/
def Obligations.StepRunsFrontCommand : Prop :=
  ∀ (c : Instr) (rest : List Instr) (s : State), step { s with pending := c :: rest } = exec c { s with pending := rest }

/-- On an empty queue a step takes the front one of the pin changes that wait; where none waits, it lets time pass to the next
half-instant if no event is due, and otherwise puts one of the events due into the queue, whichever the free value picks; it
changes nothing else (the model's choices, notes/assumptions/1.md, 2.md and 20.md). The events due are exactly these: the expiry
of each timer that runs and has reached its expiry instant (R1), the lease expiry and the first warning point of each count that
has come to them (R91, R92), and the turn-on, at a tick with the supply OPERATING, the Inrush Queue not empty and the INRUSH
spacing passed (R152). That no sample of RAIL, PRS or FLT is among them, where the part takes one of each every millisecond (R131,
R146, R154), is the model's choice (notes/assumptions/4.md): samples come as commands alone. -/
def Obligations.IdleStepPassesTimeOrTakesADueEvent : Prop :=
  (∀ s : State,
    ticks s = s.now / 2 ∧ firstTick s = (s.now + 1) / 2 ∧ (atTick s = true ↔ s.now % 2 = 0)
    ∧ due s none = false ∧ ∀ t : Nat, due s (some t) = true ↔ 2 * t ≤ s.now)
  ∧ (∀ (c : Instr) (s : State), EntriesOk s →
    (c ∈ eventsDue s ↔
      c = .qualificationTimerExpiry ∧ s.candidate.isSome = true ∧ due s s.qualTimer = true
      ∨ c = .holdTimerExpiry ∧ s.supply = .hold ∧ due s s.holdTimer = true
      ∨ (∃ tick, c = .stallTimerExpiry tick ∧ takesPart s.bus = true ∧ s.stallTimer = some tick
          ∧ due s s.stallTimer = true)
      ∨ (∃ n,
          c = .presenceTimerExpiry n ∧ due s (s.slotRec n).presence = true
          ∨ c = .blankingTimerExpiry n ∧ due s (s.slotRec n).blanking = true
          ∨ c = .trip n ∧ (s.slotRec n).state = .on ∧ due s (s.slotRec n).fault = true
          ∨ c = .cooldownExpiry n ∧ (s.slotRec n).state = .tripped ∧ due s (s.slotRec n).cooldown = true
          ∨ c = .stableTimerExpiry n ∧ due s (s.slotRec n).stable = true)
      ∨ (∃ i, due s (s.entry i).deadline = true
          ∧ (c = .offerWindowExpiry i ∧ (s.entry i).state = .offered
            ∨ c = .reduceGraceExpiry i ∧ (s.entry i).state = .reducing
            ∨ c = .revokeGraceExpiry i ∧ (s.entry i).state = .revoking
            ∨ c = .deliveryLimitExpiry i ∧ (s.entry i).state = .retired))
      ∨ (∃ i p, (s.entry i).period = some p
          ∧ (c = .leaseExpiry i ∧ p.start + 1000 * (s.entry i).lease ≤ ticks s
            ∨ c = .warningPoint i ∧ p.warned = false ∧ p.warnPoint < (s.entry i).lease
              ∧ p.start + 1000 * ((s.entry i).lease - p.warnPoint) ≤ ticks s))
      ∨ c = .turnOn ∧ atTick s = true ∧ s.supply = .operating ∧ s.inrush ≠ []
          ∧ ∀ t, s.lastOn = some t → t + activeItem s .inrush ≤ ticks s))
  ∧ ∀ s : State, s.pending = [] →
    (∀ (w : Wire) (rest : List Wire), s.wires = w :: rest → step s = .next (takeWire w { s with wires := rest }))
    ∧ (s.wires = [] → eventsDue s = [] → step s = .next { s with now := s.now + 1 })
    ∧ (s.wires = [] → eventsDue s ≠ [] →
        ∃ c ∈ eventsDue s, step s = .next { s with pending := [c], ties := s.ties + 1 })

/-- An expiry event whose timer is stopped or has not reached its expiry instant changes nothing (R1): the timers of a slot, of an
entry, of the supply and the stall timer, a lease that has not run its whole length and a warning point not yet reached (R91,
R92); so does a turn-on whose conditions do not hold, between two ticks among them (R152). -/
def Obligations.EventsNotDueChangeNothing : Prop :=
  (∀ (n : Slot) (s : State),
    (due s (s.slotRec n).presence = false → exec (.presenceTimerExpiry n) s = .next s)
    ∧ (due s (s.slotRec n).blanking = false → exec (.blankingTimerExpiry n) s = .next s)
    ∧ (due s (s.slotRec n).fault = false → exec (.trip n) s = .next s)
    ∧ (due s (s.slotRec n).cooldown = false → exec (.cooldownExpiry n) s = .next s)
    ∧ (due s (s.slotRec n).stable = false → exec (.stableTimerExpiry n) s = .next s))
  ∧ (∀ (i : Idx) (s : State), due s (s.entry i).deadline = false →
    exec (.offerWindowExpiry i) s = .next s ∧ exec (.reduceGraceExpiry i) s = .next s
    ∧ exec (.revokeGraceExpiry i) s = .next s ∧ exec (.deliveryLimitExpiry i) s = .next s)
  ∧ (∀ (i : Idx) (s : State), (s.entry i).period = none →
    exec (.leaseExpiry i) s = .next s ∧ exec (.warningPoint i) s = .next s)
  ∧ (∀ (i : Idx) (p : LeasePeriod) (s : State), (s.entry i).period = some p →
    ((s.entry i).lease ≠ 0 → ticks s < p.start + 1000 * (s.entry i).lease → exec (.leaseExpiry i) s = .next s)
    ∧ (ticks s < p.start + 1000 * ((s.entry i).lease - p.warnPoint) → exec (.warningPoint i) s = .next s))
  ∧ (∀ s : State,
    (due s s.qualTimer = false → exec .qualificationTimerExpiry s = .next s)
    ∧ (due s s.holdTimer = false → exec .holdTimerExpiry s = .next s)
    ∧ (due s s.stallTimer = false → ∀ tick : Nat, exec (.stallTimerExpiry tick) s = .next s)
    ∧ (s.supply ≠ .operating ∨ s.inrush = [] ∨ atTick s = false
          ∨ (∃ t, s.lastOn = some t ∧ ticks s < t + duration s .inrush) →
        exec .turnOn s = .next s))

/-- Every command answers a next state in every state. The rest is the model's choice (notes/assumptions/2.md, 13.md, 15.md,
20.md and 21.md): each, DEVICE_RESET too, leaves the queue of commands, the counter of free choices, the pin levels and the pin
changes that wait, and each but DEVICE_RESET, at which time restarts, leaves the time and RSTn. -/
def Obligations.EveryCommandCompletes : Prop :=
  ∀ (c : Instr) (s : State), ∃ t, exec c s = .next t ∧ t.pending = s.pending ∧ t.ties = s.ties
    ∧ t.pins = s.pins ∧ t.wires = s.wires
    ∧ ((∀ k, c ≠ .deviceReset k) → t.now = s.now ∧ t.inReset = s.inReset)

/-! ## Reset -/

/-- DEVICE_RESET leaves exactly the reset state with the strap levels latched, whatever was before: every entry FREE with
generation 0 and nothing in it, both lists empty, entry 0 the next to be recorded in (R22), totals 0, outboxes empty, interface
IDLE with no byte begun and no stall timer (R129), supply UNQUALIFIED, slots EMPTY, registers and configuration at their reset
values, and no frame taken whose CSn fall came before (R177). RSTn held low leaves every block in its reset state, the straps not
yet latched; until it rises, as DEVICE_RESET ends, no row but DEVICE_RESET does anything, the ports ignore their pins, SDO is
high-impedance, and SDA, INTn, every ATTN and every SWEN are released or low (R129, R144, R176, R177). The queues, the pins, the
counter of free choices and the start of time are the model's (notes/assumptions/1.md, 2.md, 13.md, 20.md, 21.md). -/
def Obligations.DeviceResetState : Prop :=
  (∀ s : State, s.inReset = false →
    takeWire .rstnLow s =
      { State.resetWith s.straps with
        pending := s.pending, ties := s.ties, pins := s.pins, wires := s.wires, inReset := true }
    ∧ ∀ k : BitVec 3, takeWire (.rstnHigh k) s = s)
  ∧ (∀ s : State, s.inReset = true →
    takeWire .rstnLow s = s
    ∧ (∀ k : BitVec 3, exec (.deviceReset k) s = .next (takeWire (.rstnHigh k) s))
    ∧ ∀ high : Bool,
        takeWire (.scl high) s = { s with pins := { s.pins with scl := high } }
        ∧ takeWire (.sda high) s = { s with pins := { s.pins with sda := high } }
        ∧ takeWire (.csn high) s = { s with pins := { s.pins with csn := high } }
        ∧ takeWire (.sck high) s = { s with pins := { s.pins with sck := high } }
        ∧ takeWire (.sdi high) s = { s with pins := { s.pins with sdi := high } })
  ∧ (∀ s : State, s.inReset = true → ResetOk s →
    (∀ c : Instr, (∀ k, c ≠ .deviceReset k) → exec c s = .next s)
    ∧ sdo s = none ∧ sdaHeld s = false ∧ intLow s = false ∧ ∀ n : Slot, attn s n = false ∧ swen s n = false)
  ∧ ∀ (k : BitVec 3) (s : State), ∃ t, exec (.deviceReset k) s = .next t
    ∧ t = { State.resetWith k with
            pending := s.pending, ties := s.ties, pins := s.pins, wires := s.wires
            frame := if s.pins.csn then .closed else .missed 0 }
    ∧ t.inReset = false ∧ t.waitQueue = [] ∧ t.admission = [] ∧ LowestFree t 0
    ∧ (∀ i : Idx, t.entry i =
        { gen := 0, state := .free, slot := 0, tag := 0, cls := 0, requested := 0, floor := 0, held := 0, target := none,
          lease := 0, period := none, cause := none, deadline := none })
    ∧ t.straps = k ∧ t.bus = .idle ∧ t.bits = [] ∧ t.clock = none ∧ t.stallTimer = none ∧ sdaHeld t = false
    ∧ t.capacity = 0 ∧ heldTotal t = 0 ∧ pendingTotal t = 0 ∧ t.deficit = false
    ∧ (∀ n : Slot, t.outbox n = { reply := none, notices := [] } ∧ attn t n = false ∧ swen t n = false
        ∧ t.slotRec n =
          { state := .empty, seated := false, presence := none, switch := false, key := none, blanking := none,
            fault := none, stable := none, cooldown := none, trips := 0 }
        ∧ slotReg t n = 0)
    ∧ t.inrush = [] ∧ t.lastOn = none
    ∧ t.supply = .unqualified ∧ t.qualified = none ∧ t.candidate = none ∧ t.qualTimer = none ∧ t.holdTimer = none
    ∧ t.railCode = 0 ∧ t.sampled = 0
    ∧ t.events = 0 ∧ t.evmask = 0 ∧ intLow t = false ∧ t.cmd = 0 ∧ t.arg0 = 0 ∧ t.arg1 = 0 ∧ t.result = 0
    ∧ (∀ x ∈ allItems, t.staged[itemIndex x] = itemDefault x ∧ t.active[itemIndex x] = itemDefault x)
    ∧ readRegister t 0x00 = 0x4B32 ∧ countsReg t = 0x0020

/-- The invariant holds after device reset, whatever the strap levels. -/
def Obligations.InvHoldsAtReset : Prop := Inv State.reset ∧ ∀ k : BitVec 3, Inv (State.resetWith k)

/-! ## Module requests

A message row is a whole write transaction: u is the state its START meets and s the one it leaves. -/

/-- A message that fails one of steps 1 to 6 of the validation order is answered with the status of the FIRST step that fails, in
a reply that echoes its first byte and names no entry; nothing else changes (R120 to R124).
Here s is the state that the START of the message leaves. -/
def Obligations.MessagesRefusedInOrder : Prop :=
  (∀ (k : Kind) (n : Slot) (body : List Byte) (e : BusEnd) (u s : State) (st : Status),
    startSeen u = s → s.inReset = false →
    windowValid s = true → body.length ≤ 15 →
    (let msg := kindByte k :: body
     (checkOk s.straps n msg = false ∧ st = .checkError)
     ∨ (checkOk s.straps n msg = true ∧ msg.length ≠ kindLength k ∧ st = .lengthError)
     ∨ (checkOk s.straps n msg = true ∧ msg.length = kindLength k ∧ fieldsInRange k msg = false ∧ st = .badValue)
     ∨ (checkOk s.straps n msg = true ∧ msg.length = kindLength k ∧ fieldsInRange k msg = true
        ∧ (s.slotRec n).seated = false ∧ st = .notSeated)
     ∨ (checkOk s.straps n msg = true ∧ msg.length = kindLength k ∧ fieldsInRange k msg = true
        ∧ (s.slotRec n).seated = true ∧ k = .claim
        ∧ ((s.slotRec n).state = .blocked ∧ st = .slotBlocked ∨ (s.slotRec n).state = .tripped ∧ st = .slotTripped))) →
    exec (kindCommand k n body e) u = .next (enterBus (afterEnd e)
      { s.setOutbox n { s.outbox n with
          reply := some { id := s.nextItem, kind := kindByte k, status := st, overwritten := (s.outbox n).reply.isSome,
                          named := none, gen := 0, state := .free, held := 0, extra := 0 } } with
        nextItem := s.nextItem + 1 }))
  ∧ (∀ (n : Slot) (b : Byte) (rest : List Byte) (e : BusEnd) (u s : State) (st : Status),
    startSeen u = s → s.inReset = false →
    windowValid s = true → rest.length ≤ 15 →
    (checkOk s.straps n (b :: rest) = false ∧ st = .checkError
      ∨ checkOk s.straps n (b :: rest) = true ∧ kindOf b = none ∧ st = .unknownKind) →
    exec (.refusedMessage n (b :: rest) e) u = .next (enterBus (afterEnd e)
      { s.setOutbox n { s.outbox n with
          reply := some { id := s.nextItem, kind := b, status := st, overwritten := (s.outbox n).reply.isSome,
                          named := none, gen := 0, state := .free, held := 0, extra := 0 } } with
        nextItem := s.nextItem + 1 }))

/-- A handle that names no living entry of its generation is answered STALE_HANDLE, one that names another slot's entry
FOREIGN_HANDLE; nothing else changes (R13).
Here s is the state that the START of the message leaves. -/
def Obligations.HandleRefusals : Prop :=
  ∀ (k : Kind) (n : Slot) (body : List Byte) (e : BusEnd) (u s : State) (st : Status),
    startSeen u = s →
    k = .confirm ∨ k = .adjust ∨ k = .comply ∨ k = .renew ∨ k = .release →
    Passes s k n (kindByte k :: body) →
    (let msg := kindByte k :: body
     ((∀ i : Idx, (byteAt msg 1).toNat = i.val → (s.entry i).state = .free ∨ (s.entry i).gen ≠ byteAt msg 2)
        ∧ st = .staleHandle
      ∨ (∃ i : Idx, (byteAt msg 1).toNat = i.val ∧ (s.entry i).state ≠ .free ∧ (s.entry i).gen = byteAt msg 2
          ∧ (s.entry i).slot ≠ n) ∧ st = .foreignHandle)) →
    exec (kindCommand k n body e) u = .next (enterBus (afterEnd e) (placeReply n (kindByte k) st none 0 .free 0 0 s))

/-- A request on an entry in a state its kind does not accept is answered WRONG_STATE: the reply names the entry with its
state, held level and the extra of Table 1-4, and the entry is left as it was (R41, R70, R85, R95).
Here s is the state that the START of the message leaves. -/
def Obligations.WrongStateRefusals : Prop :=
  ∀ (k : Kind) (n : Slot) (body : List Byte) (e : BusEnd) (u s : State) (i : Idx) (x : Nat),
    startSeen u = s →
    Passes s k n (kindByte k :: body) → NamesEntry s n (kindByte k :: body) i →
    (k = .confirm ∧ (s.entry i).state ≠ .offered
      ∨ k = .adjust ∧ ((s.entry i).state = .offered ∨ (s.entry i).state = .reducing ∨ (s.entry i).state = .revoking
          ∨ (s.entry i).state = .retired)
      ∨ k = .comply ∧ (s.entry i).state ≠ .reducing
      ∨ k = .renew ∧ (countsLease (s.entry i).state = false ∨ (s.entry i).lease = 0)) →
    ((s.entry i).state = .waiting ∧ x = waitingAhead s i
      ∨ (s.entry i).state = .offered ∧ x = tensLeft s (s.entry i).deadline
      ∨ countsLease (s.entry i).state = true ∧ x = leaseLeft s (s.entry i)
      ∨ ((s.entry i).state = .revoking ∨ (s.entry i).state = .retired) ∧ x = causeCodeOf (s.entry i).cause) →
    exec (kindCommand k n body e) u = .next (enterBus (afterEnd e)
      (placeReply n (kindByte k) .wrongState (some i) (s.entry i).gen (s.entry i).state (s.entry i).held x s))

/-- The refusals of a CLAIM in the order of Table 2-1; the reply names no entry and nothing else changes (R25, R26).
Here s is the state that the START of the message leaves. -/
def Obligations.ClaimRefusals : Prop :=
  ∀ (n : Slot) (body : List Byte) (e : BusEnd) (u s : State) (st : Status),
    startSeen u = s →
    Passes s .claim n (kindByte .claim :: body) →
    (let f := claimFields (kindByte .claim :: body)
     (HoldsTag s n f.tag ∧ st = .duplicateTag)
     ∨ (¬ HoldsTag s n f.tag ∧ 4 ≤ countWhere s (ofSlot n) ∧ st = .slotFull)
     ∨ (¬ HoldsTag s n f.tag ∧ countWhere s (ofSlot n) < 4 ∧ (∀ i : Idx, (s.entry i).state ≠ .free) ∧ st = .tableFull)
     ∨ (¬ HoldsTag s n f.tag ∧ countWhere s (ofSlot n) < 4 ∧ (∃ i : Idx, (s.entry i).state = .free)
        ∧ ¬ WouldOffer s f.cls f.floor ∧ 16 ≤ countWhere s (fun e => e.state == .waiting) ∧ st = .queueFull)) →
    exec (.claim n body e) u = .next (enterBus (afterEnd e) (placeReply n 0x01 st none 0 .free 0 0 s))

/-- A CLAIM that passes every check is recorded in the lowest FREE entry. If it passes the admission test it is offered at once
at the smaller of its requested level and the headroom, answered with that level and OFFERW in 10 ms units, and no notice is
queued; otherwise it is WAITING at the end of its class, answered with the number ahead of it (R14, R26 to R31).
Here s is the state that the START of the message leaves. -/
def Obligations.ClaimRecorded : Prop :=
  ∀ (n : Slot) (body : List Byte) (e : BusEnd) (u s : State) (i : Idx),
    startSeen u = s →
    ListsOk s → Passes s .claim n (kindByte .claim :: body) →
    (let f := claimFields (kindByte .claim :: body)
     let level := min f.requested (headroom s)
     let recorded := fun (st : EntryState) (held : Nat) (deadline : Option Nat) => s.setEntry i
       { gen := (s.entry i).gen, state := st, slot := n, tag := f.tag, cls := f.cls, requested := f.requested,
         floor := f.floor, held := held, target := none, lease := f.lease, period := none, cause := none,
         deadline := deadline }
     ¬ HoldsTag s n f.tag → countWhere s (ofSlot n) < 4 → LowestFree s i →
     (WouldOffer s f.cls f.floor →
       exec (.claim n body e) u = .next (enterBus (afterEnd e) (judgeDeficit
         (placeReply n 0x01 .accepted (some i) (s.entry i).gen .offered level (activeItem s .offerw)
           { recorded .offered level (some (firstTick s + 10 * activeItem s .offerw)) with
             admission := s.admission ++ [i] }))))
     ∧ (¬ WouldOffer s f.cls f.floor → countWhere s (fun e => e.state == .waiting) < 16 →
       ∃ ahead behind : List Idx, s.waitQueue = ahead ++ behind
         ∧ (∀ j ∈ ahead, f.cls ≤ (s.entry j).cls) ∧ (∀ j ∈ behind, (s.entry j).cls < f.cls)
         ∧ exec (.claim n body e) u = .next (enterBus (afterEnd e) (judgeDeficit
             (placeReply n 0x01 .accepted (some i) (s.entry i).gen .waiting 0 ahead.length
               { recorded .waiting 0 none with waitQueue := ahead ++ i :: behind })))))

/-- A CONFIRM of an OFFERED entry stops its window, starts its lease period, removes its OFFER notice and hands the slot over
as Table 2-5 gives; the reply carries the new state, the held level and the lease (R42, R43, R44, R149, R151).
Here s is the state that the START of the message leaves. -/
def Obligations.ConfirmAccepted : Prop :=
  ∀ (n : Slot) (body : List Byte) (e : BusEnd) (u s : State) (i : Idx),
    startSeen u = s →
    Passes s .confirm n (kindByte .confirm :: body) → NamesEntry s n (kindByte .confirm :: body) i →
    (s.entry i).state = .offered →
    (let x := s.entry i
     let r := s.slotRec n
     let confirmed := fun st : EntryState => (removeNotice n i .offer s).setEntry i
       { x with
         state := st, deadline := none
         period := if x.lease = 0 then none
                   else some { start := firstTick s, warnPoint := activeItem s .leasewarn, warned := false } }
     let answer := fun (st : EntryState) (t : State) =>
       Host.Outcome.next (enterBus (afterEnd e) (placeReply n 0x02 .accepted (some i) x.gen st x.held x.lease t))
     (r.state = .on → x.held = x.requested → exec (.confirm n body e) u = answer .active (confirmed .active))
     ∧ (r.state = .on → x.held ≠ x.requested → exec (.confirm n body e) u = answer .reduced (confirmed .reduced))
     ∧ (r.state = .idle → s.supply = .operating →
         s.inrush.Pairwise (fun m k => (s.slotRec k).key.getD 0 ≤ (s.slotRec m).key.getD 0) →
         ∃ ahead behind : List Slot, s.inrush = ahead ++ behind
           ∧ (∀ m ∈ ahead, x.cls ≤ (s.slotRec m).key.getD 0) ∧ (∀ m ∈ behind, (s.slotRec m).key.getD 0 < x.cls)
           ∧ exec (.confirm n body e) u = answer .enabling
               { (confirmed .enabling).setSlot n { r with state := .queued, key := some x.cls } with
                 inrush := ahead ++ n :: behind })
     ∧ (r.state = .idle → s.supply = .hold →
         exec (.confirm n body e) u = answer .enabling ((confirmed .enabling).setSlot n { r with state := .suspended }))
     ∧ (r.state = .queued ∨ r.state = .suspended →
         exec (.confirm n body e) u = answer .enabling (confirmed .enabling)))

/-- An ADJUST of a WAITING entry writes the levels and keeps the place in the Wait Queue, with rebalance after the reply (R86).
One of an ENABLING, ACTIVE or REDUCED entry takes the level the table of R87 chooses, with rebalance if it fell (R88), or is
refused with NO_HEADROOM and changes nothing (R89).
Here s is the state that the START of the message leaves. -/
def Obligations.AdjustByState : Prop :=
  ∀ (n : Slot) (body : List Byte) (e : BusEnd) (u s : State) (i : Idx),
    startSeen u = s →
    Passes s .adjust n (kindByte .adjust :: body) → NamesEntry s n (kindByte .adjust :: body) i →
    (let x := s.entry i
     let r := adjustRequested (kindByte .adjust :: body)
     let f := adjustFloor (kindByte .adjust :: body)
     let available := if s.supply = .operating then headroom s else 0
     let powered := x.state = .enabling ∨ x.state = .active ∨ x.state = .reduced
     let state := fun h : Nat =>
       if x.state = .enabling then EntryState.enabling else if h = r then EntryState.active else EntryState.reduced
     let adjusted := fun h : Nat =>
       placeReply n 0x03 .accepted (some i) x.gen (state h) h (leaseLeft s x)
         (removeNotice n i .restore (s.setEntry i { x with requested := r, floor := f, held := h, state := state h }))
     (x.state = .waiting → EntryOk x →
       exec (.adjust n body e) u = .next (enterBus (afterEnd e) (judgeDeficit (rebalance
         (placeReply n 0x03 .accepted (some i) x.gen .waiting 0 (waitingAhead s i)
           (s.setEntry i { x with requested := r, floor := f }))))))
     ∧ (powered → r < x.held →
       exec (.adjust n body e) u = .next (enterBus (afterEnd e) (judgeDeficit (rebalance (adjusted r)))))
     ∧ (powered → x.held ≤ r → f ≤ x.held + available →
       exec (.adjust n body e) u = .next (enterBus (afterEnd e) (judgeDeficit (adjusted (min r (x.held + available))))))
     ∧ (powered → x.held + available < f →
       exec (.adjust n body e) u =
         .next (enterBus (afterEnd e) (placeReply n 0x03 .noHeadroom (some i) x.gen x.state x.held available s))))

/-- A COMPLY at or below the target makes the entry REDUCED at the target, removes the REDUCE notice and runs rebalance after
the reply; one above the target is refused with LEVEL_MISMATCH and changes nothing (R70).
Here s is the state that the START of the message leaves. -/
def Obligations.ComplyByLevel : Prop :=
  ∀ (n : Slot) (body : List Byte) (e : BusEnd) (u s : State) (i : Idx) (target : Nat),
    startSeen u = s →
    Passes s .comply n (kindByte .comply :: body) → NamesEntry s n (kindByte .comply :: body) i →
    (s.entry i).state = .reducing → (s.entry i).target = some target →
    (complyLevel (kindByte .comply :: body) ≤ target →
      exec (.comply n body e) u = .next (enterBus (afterEnd e) (judgeDeficit (rebalance
        (placeReply n 0x04 .accepted (some i) (s.entry i).gen .reduced target (leaseLeft s (s.entry i))
          (removeNotice n i .reduce
            (s.setEntry i { s.entry i with state := .reduced, held := target, target := none, deadline := none })))))))
    ∧ (target < complyLevel (kindByte .comply :: body) →
      exec (.comply n body e) u =
        .next (enterBus (afterEnd e) (placeReply n 0x04 .levelMismatch (some i) (s.entry i).gen .reducing (s.entry i).held target s)))

/-- A RENEW of a leased entry whose count runs starts a new period of the full lease and removes the LEASE_WARN notice; nothing
else changes (R91, R95).
Here s is the state that the START of the message leaves. -/
def Obligations.RenewStartsANewPeriod : Prop :=
  ∀ (n : Slot) (body : List Byte) (e : BusEnd) (u s : State) (i : Idx),
    startSeen u = s →
    Passes s .renew n (kindByte .renew :: body) → NamesEntry s n (kindByte .renew :: body) i →
    countsLease (s.entry i).state = true → (s.entry i).lease ≠ 0 →
    exec (.renew n body e) u = .next (enterBus (afterEnd e)
      (placeReply n 0x05 .accepted (some i) (s.entry i).gen (s.entry i).state (s.entry i).held (s.entry i).lease
        (removeNotice n i .leaseWarn (s.setEntry i
          { s.entry i with
            period := some { start := firstTick s, warnPoint := activeItem s .leasewarn, warned := false } }))))

/-- A RELEASE frees the entry in every state and is answered with the generation before the freeing and the cause code in
REVOKING and RETIRED; rebalance runs after the reply (R97).
Here s is the state that the START of the message leaves. -/
def Obligations.ReleaseFreesTheEntry : Prop :=
  ∀ (n : Slot) (body : List Byte) (e : BusEnd) (u s : State) (i : Idx) (x : Nat),
    startSeen u = s →
    Passes s .release n (kindByte .release :: body) → NamesEntry s n (kindByte .release :: body) i →
    (((s.entry i).state = .revoking ∨ (s.entry i).state = .retired) ∧ x = causeCodeOf (s.entry i).cause
      ∨ (s.entry i).state ≠ .revoking ∧ (s.entry i).state ≠ .retired ∧ x = 0) →
    exec (.release n body e) u = .next (enterBus (afterEnd e) (judgeDeficit (rebalance
      (placeReply n 0x06 .accepted (some i) (s.entry i).gen .free 0 x (freeEntry i s)))))

/-- A QUERY answers with the slot's entry of the tag as it stands and the extra of Table 1-4, or NO_SUCH_TAG; it changes
nothing but the reply buffer (R21).
Here s is the state that the START of the message leaves. -/
def Obligations.QueryAnswers : Prop :=
  ∀ (n : Slot) (body : List Byte) (e : BusEnd) (u s : State),
    startSeen u = s →
    Passes s .query n (kindByte .query :: body) →
    (let tag := queryTag (kindByte .query :: body)
     (¬ HoldsTag s n tag →
        exec (.query n body e) u = .next (enterBus (afterEnd e) (placeReply n 0x07 .noSuchTag none 0 .free 0 0 s)))
     ∧ (∀ (i : Idx) (x : Nat), SlotLimits s → (s.entry i).state ≠ .free → (s.entry i).slot = n → (s.entry i).tag = tag →
        ((s.entry i).state = .waiting ∧ x = waitingAhead s i
          ∨ (s.entry i).state = .offered ∧ x = tensLeft s (s.entry i).deadline
          ∨ countsLease (s.entry i).state = true ∧ x = leaseLeft s (s.entry i)
          ∨ ((s.entry i).state = .revoking ∨ (s.entry i).state = .retired) ∧ x = causeCodeOf (s.entry i).cause) →
        exec (.query n body e) u = .next (enterBus (afterEnd e)
          (placeReply n 0x07 .accepted (some i) (s.entry i).gen (s.entry i).state (s.entry i).held x s))))

/-! ## The module bus -/

/-- The interface by Table 7-2. A START is a fall of SDA with SCL high, a STOP a rise (R118). Either ends what is in flight: a
write of 1 to 16 whole bytes is taken as one message, a read with 12 bytes transferred delivers, and every other transaction
moves the interface alone (R119, R120, R127), which is then IDLE, or in ADDRESS after a START. SDA is sampled at the rise of SCL
and the bit counts at its fall (the model's choice, notes/assumptions/22.md); the ninth clock completes the byte: an address byte
is acknowledged by Table 7-1, data bytes 1 to 16 of a write are stored and acknowledged, later ones are not (R119). A byte of a
read is sent most significant bit first, 0xFF beyond the twelfth and nothing after one not acknowledged, and counts as transferred
with its ninth clock (R126). The stall timer of 25 ms runs while SCL is low in RECEIVE, OVERRUN and SEND alone; its expiry
abandons the transaction with BUS_STALL and the interface PASSIVE (R128). The row names the tick its timer expires at, and another
tick does nothing (the model's choice, notes/assumptions/8.md). The part is out of device reset in each clause of a row or a pin:
DeviceResetState says what it does in reset. -/
def Obligations.InterfaceOnTheBus : Prop :=
  (∀ (b : Bus) (s : State), enterBus b s =
      { s with
        bus := b, bits := [], clock := none
        stallTimer := if takesPart b = true ∧ s.pins.scl = false then some (firstTick s + 25) else none })
  ∧ afterEnd .stop = .idle ∧ afterEnd .restart = .address
  ∧ (∀ b : Bus, takesPart b = true ↔ b ≠ .idle ∧ b ≠ .address ∧ b ≠ .passive)
  -- what ends at a START or STOP
  ∧ (∀ (e : BusEnd) (s : State),
      (s.bus = .idle ∨ s.bus = .address ∨ s.bus = .passive ∨ (∃ n, s.bus = .overrun n) ∨ (∃ n, s.bus = .receive n [])
        ∨ (∃ n buffer, s.bus = .receive n buffer ∧ s.bits ≠ [])
        ∨ (∃ record item sent answered, s.bus = .send record item sent answered ∧ sent < 12)) →
      endTransaction e s = enterBus (afterEnd e) s)
  ∧ (∀ (n : Slot) (b : Byte) (rest : List Byte) (e : BusEnd) (s : State), s.bus = .receive n (b :: rest) → s.bits = [] →
      endTransaction e s = enterBus (afterEnd e) (handleMessage n (b :: rest) s))
  ∧ (∀ (record : List Byte) (item : StagedItem) (sent : Nat) (answered : Bool) (e : BusEnd) (s : State),
      s.bus = .send record item sent answered → 12 ≤ sent →
      endTransaction e s = enterBus (afterEnd e) (deliver item s))
  ∧ (∀ s : State, startSeen s = endTransaction .restart s ∧ stopSeen s = endTransaction .stop s)
  -- the rows of a write
  ∧ (∀ (n : Slot) (why : Discard) (e : BusEnd) (s : State), s.inReset = false →
      exec (.writeDiscarded n why e) s = .next (enterBus (afterEnd e) (startSeen s)))
  ∧ (∀ (k : Kind) (n : Slot) (body : List Byte) (e : BusEnd) (s : State), s.inReset = false → windowValid s = false →
      exec (kindCommand k n body e) s = .next (enterBus (afterEnd e) (startSeen s))
      ∧ exec (.refusedMessage n body e) s = .next (enterBus (afterEnd e) (startSeen s)))
  ∧ (∀ (n : Slot) (b : Byte) (rest : List Byte) (e : BusEnd) (s : State), s.inReset = false → windowValid s = true →
      rest.length ≤ 15 →
      exec (busCommand s.straps n (b :: rest) false e) s =
        .next (enterBus (afterEnd e) (handleMessage n (b :: rest) (startSeen s))))
  -- SDA and SCL
  ∧ (∀ (high : Bool) (s : State), s.inReset = false →
      (let t := { s with pins := { s.pins with sda := high } }
       let falls := sdaLine s = true ∧ sdaLine t = false
       let rises := sdaLine s = false ∧ sdaLine t = true
       (s.pins.scl = true → falls → takeWire (.sda high) s = startSeen t)
       ∧ (s.pins.scl = true → rises → takeWire (.sda high) s = stopSeen t)
       ∧ (s.pins.scl = false ∨ ¬ falls ∧ ¬ rises → takeWire (.sda high) s = t)))
  ∧ (∀ (high : Bool) (s : State), s.inReset = false → high = s.pins.scl → takeWire (.scl high) s = s)
  ∧ (∀ s : State, s.inReset = false → s.pins.scl = false →
      takeWire (.scl true) s =
        { s with pins := { s.pins with scl := true }, clock := some (sdaLine s), stallTimer := none })
  ∧ (∀ s : State, s.inReset = false → s.pins.scl = true →
      (let low := { s with pins := { s.pins with scl := false }, clock := none }
       let timed := { low with stallTimer := if takesPart s.bus then some (firstTick s + 25) else none }
       (s.clock = none ∨ s.bus = .idle ∨ s.bus = .passive → takeWire (.scl false) s = timed)
       ∧ (∀ level : Bool, s.clock = some level → s.bus ≠ .idle → s.bus ≠ .passive → s.bits.length < 8 →
           takeWire (.scl false) s = { timed with bits := s.bits ++ [level] })
       ∧ (∀ (level : Bool) (b : Bus), s.clock = some level → 8 ≤ s.bits.length →
           (s.bus = .address ∧ addressed s.straps (byteOf s.bits) = none ∧ b = .passive
             ∨ (∃ n, s.bus = .address ∧ addressed s.straps (byteOf s.bits) = some (.write n) ∧ b = .receive n [])
             ∨ (∃ a, s.bus = .address ∧ addressed s.straps (byteOf s.bits) = some (.read a) ∧ b = stageRecord a s)
             ∨ (∃ n buffer, s.bus = .receive n buffer ∧ buffer.length < 16
                 ∧ b = .receive n (buffer ++ [byteOf s.bits]))
             ∨ (∃ n buffer, s.bus = .receive n buffer ∧ 16 ≤ buffer.length ∧ b = .overrun n)
             ∨ (∃ n, s.bus = .overrun n ∧ b = .overrun n)
             ∨ (∃ record item sent, s.bus = .send record item sent true
                 ∧ b = .send record item (min 12 (sent + 1)) (!level))
             ∨ (∃ record item sent, s.bus = .send record item sent false ∧ b = s.bus)) →
           takeWire (.scl false) s = enterBus b low)))
  -- what the part drives on SDA
  ∧ (∀ s : State, sdaLine s = (s.pins.sda && !sdaHeld s))
  ∧ (∀ s : State, s.bus = .idle ∨ s.bus = .passive ∨ (∃ n, s.bus = .overrun n) → sdaHeld s = false)
  ∧ (∀ s : State, s.bus = .address →
      (sdaHeld s = true ↔ s.bits.length = 8 ∧ addressed s.straps (byteOf s.bits) ≠ none))
  ∧ (∀ (n : Slot) (buffer : List Byte) (s : State), s.bus = .receive n buffer →
      (sdaHeld s = true ↔ s.bits.length = 8 ∧ buffer.length < 16))
  ∧ (∀ (record : List Byte) (item : StagedItem) (sent : Nat) (answered : Bool) (s : State),
      s.bus = .send record item sent answered →
      (answered = false ∨ 8 ≤ s.bits.length ∨ record.length ≤ sent → sdaHeld s = false)
      ∧ (∀ byte : Byte, answered = true → s.bits.length < 8 → record[sent]? = some byte →
          sdaHeld s = !byte.getMsbD s.bits.length))
  -- the stall timer
  ∧ (∀ (tick : Nat) (s : State), takesPart s.bus = true → s.stallTimer = some tick → due s s.stallTimer = true →
      exec (.stallTimerExpiry tick) s = .next
        { s with bus := .passive, bits := [], clock := none, stallTimer := none, events := s.events ||| 0x200 })
  ∧ (∀ (tick : Nat) (s : State), takesPart s.bus = false ∨ s.stallTimer ≠ some tick →
      exec (.stallTimerExpiry tick) s = .next s)

/-- The bytes of the record a read stages, before its check byte: the reply, else the head notice, else IDLE; a SUMMARY for the
summary address (R108, Table 7-6, Table 6-3, R60). Staging changes nothing but the interface (R108), which sends nothing yet; with
an invalid window nothing is staged and the interface is PASSIVE (R117). READ_STAGING is the read's START and address byte: s is
the state the START leaves, out of device reset. The address bytes are those of Table 7-1, each with its read/write bit last (R116). -/
def Obligations.ReadStagesTheRecord : Prop :=
  (∀ (k : BitVec 3) (b : Byte),
    (let base := 16 * k.toNat
     (k = 0 ∨ k = 7 → addressed k b = none)
     ∧ (k ≠ 0 → k ≠ 7 →
         (∀ n : Slot, b.toNat = 2 * (base + n.val) → addressed k b = some (.write n))
         ∧ (∀ n : Slot, b.toNat = 2 * (base + n.val) + 1 → addressed k b = some (.read (.slot n)))
         ∧ (b.toNat = 2 * (base + 12) + 1 → addressed k b = some (.read .summary))
         ∧ (b.toNat < 2 * base ∨ b.toNat = 2 * (base + 12) ∨ 2 * (base + 13) ≤ b.toNat → addressed k b = none))))
  ∧ ∀ u s : State, startSeen u = s → s.inReset = false →
    (windowValid s = false → ∀ a : ReadAddr, exec (.readStaging a) u = .next (enterBus .passive s))
    ∧ (windowValid s = true →
    (let staged := fun (a : ReadAddr) (record : List Byte) (item : StagedItem) =>
       stageRecord a s = .send (record ++ [crc8 (readAddr s.straps a :: record)]) item 0 true
       ∧ exec (.readStaging a) u = .next (enterBus (stageRecord a s) s)
     (∀ (n : Slot) (r : Reply), (s.outbox n).reply = some r →
       staged (.slot n)
         [0x10, r.kind, loByte (statusCode r.status), if r.overwritten then 1 else 0,
          match r.named with | none => 0xFF | some i => loByte i.val, r.gen, loByte (entryStateCode r.state),
          hiByte r.held, loByte r.held, hiByte r.extra, loByte r.extra] (.reply n r.id))
     ∧ (∀ (n : Slot) (x : Notice) (rest : List Notice) (cause time : Nat),
       (s.outbox n).reply = none → (s.outbox n).notices = x :: rest →
       (x.kind = .offer ∨ x.kind = .reduce) ∧ cause = 0 ∧ time = tensLeft s (s.entry x.index).deadline
         ∨ x.kind = .revoke ∧ cause = causeCodeOf (s.entry x.index).cause
             ∧ time = tensLeft s (s.entry x.index).deadline
         ∨ x.kind = .closed ∧ cause = causeCodeOf (s.entry x.index).cause ∧ time = 0
         ∨ x.kind = .leaseWarn ∧ cause = 0 ∧ time = leaseLeft s (s.entry x.index)
         ∨ (x.kind = .recall ∨ x.kind = .restore) ∧ cause = 0 ∧ time = 0 →
       staged (.slot n)
         [loByte (noticeCode x.kind), loByte x.index.val, x.gen, loByte x.tag.val, hiByte x.level, loByte x.level,
          loByte cause, hiByte time, loByte time, 0, 0] (.notice n x.id))
     ∧ (∀ n : Slot, (s.outbox n).reply = none → (s.outbox n).notices = [] →
       staged (.slot n) [0, 0, 0, 0, 0, 0, 0, 0, 0, 0, 0] .nothing)
     ∧ (∀ band : Byte, (s.supply = .unqualified ∧ band = 0xFF
           ∨ s.supply ≠ .unqualified ∧ ∃ b : Band, s.qualified = some b ∧ band = loByte b.val) →
       staged .summary
         [0x30, loByte (supplyCode s.supply), band, if s.deficit then 1 else 0, hiByte s.capacity, loByte s.capacity,
          hiByte (heldTotal s), loByte (heldTotal s), hiByte (pendingTotal s), loByte (pendingTotal s),
          loByte (countWhere s fun e => e.state == .waiting)] .nothing)))

/-- The bytes of a read that the controller clocks are transferred up to the first that it does not acknowledge, that one
included, and no more than 12 (R126). A read that ends with all 12 transferred removes the staged item if that same item is still
there, and a CLOSED notice so removed frees its entry; a shorter read, an IDLE or SUMMARY record and an item no longer present
remove nothing (R109, R110, R111, R127). With no read in flight no record is delivered: the end moves the interface alone, or ends
the write that Table 7-2 has it end (R128). -/
def Obligations.ReadEndDelivers : Prop :=
  (∀ (acks : List Bool) (e : BusEnd) (s : State), s.inReset = false →
    (∀ record item sent answered, s.bus ≠ .send record item sent answered) →
    exec (.readEnd acks e) s = .next (endTransaction e s))
  ∧ (∀ (acks : List Bool) (e : BusEnd) (s : State), s.inReset = false →
    s.bus = .idle ∨ s.bus = .address ∨ s.bus = .passive ∨ (∃ n, s.bus = .overrun n) →
    exec (.readEnd acks e) s = .next (enterBus (afterEnd e) s))
  ∧ ∀ (record : List Byte) (item : StagedItem) (before sent : Nat) (answered : Bool) (acks : List Bool) (e : BusEnd)
      (s : State),
    s.inReset = false → s.bus = .send record item before answered → before ≤ 12 →
    (answered = false ∧ sent = before
      ∨ answered = true ∧ (∀ a ∈ acks, a = true) ∧ sent = min 12 (before + acks.length)
      ∨ (∃ first rest : List Bool, answered = true ∧ acks = first ++ false :: rest ∧ (∀ a ∈ first, a = true)
          ∧ sent = min 12 (before + first.length + 1))) →
    (let ended := fun t : State => exec (.readEnd acks e) s = .next (enterBus (afterEnd e) t)
     let clocked := { s with bus := .send record item sent (answered && acks.all id) }
     (sent < 12 → ended clocked)
     ∧ (item = .nothing → ended clocked)
     ∧ (∀ (n : Slot) (id : Nat), item = .reply n id → 12 ≤ sent →
        (∀ r, (s.outbox n).reply = some r → r.id = id →
          ended (clocked.setOutbox n { reply := none, notices := (s.outbox n).notices }))
        ∧ ((∀ r, (s.outbox n).reply = some r → r.id ≠ id) → ended clocked))
     ∧ (∀ (n : Slot) (id : Nat), item = .notice n id → 12 ≤ sent →
        (let removed := clocked.setOutbox n
           { s.outbox n with notices := (s.outbox n).notices.filter (fun y => y.id != id) }
         (∀ x ∈ (s.outbox n).notices, x.id = id → OutboxOk s n →
           (x.kind ≠ .closed → ended removed)
           ∧ (x.kind = .closed → ended (freeEntry x.index removed)))
         ∧ ((∀ x ∈ (s.outbox n).notices, x.id ≠ id) → ended clocked))))

/-! ## The Supply Monitor -/

/-- A sample sets the rail code and, by the thresholds in force, the sampled band, and moves the candidate and its timer by
Table 8-2; nothing else changes (R131, R132). -/
def Obligations.RailSampleByTable : Prop :=
  ∀ (code : BitVec 10) (b : Band) (s : State), s.inReset = false →
    (code.toNat < activeItem s .t1 ∧ b = 0
      ∨ activeItem s .t1 ≤ code.toNat ∧ code.toNat < activeItem s .t2 ∧ b = 1
      ∨ activeItem s .t1 ≤ code.toNat ∧ activeItem s .t2 ≤ code.toNat ∧ code.toNat < activeItem s .t3 ∧ b = 2
      ∨ activeItem s .t1 ≤ code.toNat ∧ activeItem s .t2 ≤ code.toNat ∧ activeItem s .t3 ≤ code.toNat ∧ b = 3) →
    (let sampled := { s with railCode := code, sampled := b }
     (s.supply ≠ .unqualified → s.qualified = some b →
        exec (.railSample code) s = .next { sampled with candidate := none, qualTimer := none })
     ∧ ((s.supply = .unqualified ∨ s.qualified ≠ some b) → s.candidate = some b →
        exec (.railSample code) s = .next sampled)
     ∧ (s.supply = .unqualified → s.qualified = none → s.candidate ≠ some b →
        exec (.railSample code) s = .next
          { sampled with candidate := some b, qualTimer := some (firstTick s + 10 * activeItem s .riseq) })
     ∧ (∀ q : Band, s.supply ≠ .unqualified → s.qualified = some q → s.candidate ≠ some b →
        (q < b → exec (.railSample code) s = .next
          { sampled with candidate := some b, qualTimer := some (firstTick s + 10 * activeItem s .riseq) })
        ∧ (b < q → exec (.railSample code) s = .next
          { sampled with candidate := some b, qualTimer := some (firstTick s + activeItem s .fallq) })))

/-- The qualification of band 1, 2 or 3: BAND_CHANGE is raised, C becomes the smaller of the band's capacity and the ceiling
and is acted upon by R49: the shed plan runs if H − P exceeds it, and then rebalance where its conditions hold; from another
state the supply becomes OPERATING, the hold timer stops, SUPPLY_CHANGE is raised and the suspended slots restart (R133, R134,
R137, R139). -/
def Obligations.BandQualifiesForOperation : Prop :=
  (∀ (cap : Nat) (s : State),
    (cap + pendingTotal s < heldTotal s → recompute cap s = rebalance (shedPlan { s with capacity := cap }))
    ∧ (heldTotal s ≤ cap + pendingTotal s → recompute cap s = rebalance { s with capacity := cap }))
  ∧ ∀ (b : Band) (cap : Nat) (s : State), s.candidate = some b → due s s.qualTimer = true →
    (b = 1 ∧ cap = min (activeItem s .cap1) (activeItem s .ceiling)
      ∨ b = 2 ∧ cap = min (activeItem s .cap2) (activeItem s .ceiling)
      ∨ b = 3 ∧ cap = min (activeItem s .cap3) (activeItem s .ceiling)) →
    (let t := { s with qualified := some b, candidate := none, qualTimer := none, events := s.events ||| 0x002 }
     (s.supply = .operating → exec .qualificationTimerExpiry s = .next (judgeDeficit (recompute cap t)))
     ∧ (s.supply ≠ .operating →
         (let u := restartAll (recompute cap { t with supply := .operating, holdTimer := none })
          exec .qualificationTimerExpiry s = .next (judgeDeficit { u with events := u.events ||| 0x001 }))))

/-- The qualification of band 0 in OPERATING enters HOLD: the hold timer starts, C and every entry stay, every ON and QUEUED
slot is SUSPENDED with its switch off, the Inrush Queue empties, SUPPLY_CHANGE and BAND_CHANGE are raised (R138, R157). -/
def Obligations.BandZeroEntersHold : Prop :=
  ∀ s : State, s.candidate = some 0 → due s s.qualTimer = true → s.supply = .operating →
    ∃ t, exec .qualificationTimerExpiry s = .next t
      ∧ t = { s with
              qualified := some 0, candidate := none, qualTimer := none, supply := .hold
              holdTimer := some (firstTick s + 100 * activeItem s .holdlim)
              events := (s.events ||| 0x002) ||| 0x001, inrush := [], slots := t.slots }
      ∧ ∀ n : Slot,
          ((s.slotRec n).state = .on →
            t.slotRec n = { s.slotRec n with state := .suspended, switch := false, blanking := none, fault := none,
                                             stable := none })
          ∧ ((s.slotRec n).state = .queued → t.slotRec n = { s.slotRec n with state := .suspended, key := none })
          ∧ ((s.slotRec n).state ≠ .on → (s.slotRec n).state ≠ .queued → t.slotRec n = s.slotRec n)

/-- The supply enters LOST at the hold limit, or when band 0 qualifies first: C, H and P become 0, every admitted entry is
RETIRED with cause SUPPLY, the others stay, the Wait Queue stays, the Admission Order and the Inrush Queue are empty, every
SUSPENDED slot is IDLE and the deficit ends; each retired entry has its CLOSED notice in place of any other, in ascending index
order at the tail of its slot's queue (R134, R135, R140). -/
def Obligations.SupplyLoss : Prop :=
  ∀ (c : Instr) (s : State), Inv s →
    (c = .holdTimerExpiry ∧ s.supply = .hold ∧ due s s.holdTimer = true
      ∨ c = .qualificationTimerExpiry ∧ s.supply = .unqualified ∧ s.candidate = some 0 ∧ due s s.qualTimer = true) →
    ∃ t, exec c s = .next t ∧ t.supply = .lost ∧ t.holdTimer = none ∧ t.qualified = some 0
      ∧ t.capacity = 0 ∧ heldTotal t = 0 ∧ pendingTotal t = 0 ∧ t.deficit = false
      ∧ t.waitQueue = s.waitQueue ∧ t.admission = [] ∧ t.inrush = []
      ∧ flagSet t .supplyChange = true ∧ (c = .qualificationTimerExpiry → flagSet t .bandChange = true)
      ∧ (s.deficit = true → flagSet t .deficitEnd = true)
      ∧ (∀ i : Idx, t.entry i =
          if isAdmitted (s.entry i).state then
            { s.entry i with state := .retired, cause := some .supply, held := 0, target := none, period := none,
                             deadline := some (firstTick s + 1000 * activeItem s .deliv) }
          else s.entry i)
      ∧ (∀ n : Slot, t.slotRec n =
          if (s.slotRec n).state = .suspended then { s.slotRec n with state := .idle } else s.slotRec n)
      ∧ (∀ n : Slot, (t.outbox n).reply = (s.outbox n).reply
          ∧ ∃ closed : List Notice,
              (t.outbox n).notices
                = (s.outbox n).notices.filter (fun x => !isAdmitted (s.entry x.index).state) ++ closed
              ∧ closed.map Notice.index
                = allIdx.filter (fun i => isAdmitted (s.entry i).state && (s.entry i).slot == n)
              ∧ ∀ x ∈ closed, x.kind = .closed ∧ x.level = 0 ∧ x.gen = (s.entry x.index).gen
                  ∧ x.tag = (s.entry x.index).tag)
      ∧ t.active = s.active ∧ t.staged = s.staged ∧ t.evmask = s.evmask ∧ t.lastOn = s.lastOn ∧ t.bus = s.bus

/-- The restart makes every SUSPENDED slot with a need QUEUED with the highest class of its ENABLING and live entries as key,
and one without IDLE; the queue is in key order and then by slot number, and nothing else changes (R158). -/
def Obligations.RestartQueuesByClass : Prop :=
  ∀ s : State,
    ContractsOnly s (restartAll s)
    ∧ (restartAll s).table = s.table ∧ (restartAll s).outboxes = s.outboxes
    ∧ (restartAll s).waitQueue = s.waitQueue ∧ (restartAll s).admission = s.admission
    ∧ (∀ n : Slot,
        ((s.slotRec n).state = .suspended → hasNeed s n = true →
          ∃ k : Sys2Proof.Class, (restartAll s).slotRec n = { s.slotRec n with state := .queued, key := some k }
            ∧ (∀ i : Idx, (s.entry i).slot = n → needsPower (s.entry i).state = true → (s.entry i).cls ≤ k)
            ∧ ∃ i : Idx, (s.entry i).slot = n ∧ needsPower (s.entry i).state = true ∧ (s.entry i).cls = k)
        ∧ ((s.slotRec n).state = .suspended → hasNeed s n = false →
          (restartAll s).slotRec n = { s.slotRec n with state := .idle })
        ∧ ((s.slotRec n).state ≠ .suspended → (restartAll s).slotRec n = s.slotRec n)
        ∧ (n ∈ (restartAll s).inrush ↔ (s.slotRec n).state = .suspended ∧ hasNeed s n = true))
    ∧ (restartAll s).inrush.Pairwise fun m n =>
        needClass s n < needClass s m ∨ needClass s n = needClass s m ∧ m < n

/-! ## Slot Power Control -/

/-- A presence sample that differs from the qualified value starts the 50 ms timer if it is stopped, and one that equals it
stops the timer (R146); a fault sample counts only while the slot is ON and not blanked, a high one starts the fault timer if
it is stopped and a low one stops it (R154). Nothing else changes. -/
def Obligations.SamplesStartAndStopTimers : Prop :=
  ∀ (n : Slot) (high : Bool) (s : State), s.inReset = false →
    (let r := s.slotRec n
     (high = r.seated → exec (.presenceSample n high) s = .next (s.setSlot n { r with presence := none }))
     ∧ (high ≠ r.seated → r.presence = none →
         exec (.presenceSample n high) s = .next (s.setSlot n { r with presence := some (firstTick s + 50) }))
     ∧ (high ≠ r.seated → r.presence ≠ none → exec (.presenceSample n high) s = .next s)
     ∧ (r.state ≠ .on ∨ r.blanking ≠ none → exec (.faultSample n high) s = .next s)
     ∧ (r.state = .on → r.blanking = none → high = false →
         exec (.faultSample n high) s = .next (s.setSlot n { r with fault := none }))
     ∧ (r.state = .on → r.blanking = none → high = true → r.fault = none →
         exec (.faultSample n high) s = .next (s.setSlot n { r with fault := some (firstTick s + activeItem s .faultq) }))
     ∧ (r.state = .on → r.blanking = none → high = true → r.fault ≠ none → exec (.faultSample n high) s = .next s))

/-- Presence qualifies as present: seated becomes yes, an EMPTY slot IDLE, the reply buffer is cleared and SEAT_CHANGE raised;
nothing else changes (R147). -/
def Obligations.InsertionOfAModule : Prop :=
  ∀ (n : Slot) (s : State), due s (s.slotRec n).presence = true → (s.slotRec n).seated = false →
    exec (.presenceTimerExpiry n) s = .next
      { (s.setSlot n
            { s.slotRec n with seated := true, presence := none
                               state := if (s.slotRec n).state = .empty then .idle else (s.slotRec n).state }).setOutbox n
          { reply := none, notices := (s.outbox n).notices } with
        events := s.events ||| 0x100 }

/-- Presence qualifies as absent: the slot is EMPTY (a BLOCKED one stays so) with its switch off and its timers stopped, its
trip count kept; every entry of it is FREE with its generation advanced, its outbox is empty, SEAT_CHANGE is raised, and then
rebalance runs (R24, R115, R148). -/
def Obligations.RemovalOfAModule : Prop :=
  ∀ (n : Slot) (s : State), due s (s.slotRec n).presence = true → (s.slotRec n).seated = true →
    ∃ u, exec (.presenceTimerExpiry n) s = .next (judgeDeficit (rebalance u))
      ∧ DecisionsOnly s u ∧ u.deficit = s.deficit ∧ u.events = s.events ||| 0x100
      ∧ (∀ i : Idx, u.entry i =
          if ofSlot n (s.entry i) then { blankEntry with gen := (s.entry i).gen + 1 } else s.entry i)
      ∧ u.waitQueue = s.waitQueue.filter (fun i => !ofSlot n (s.entry i))
      ∧ u.admission = s.admission.filter (fun i => !ofSlot n (s.entry i))
      ∧ u.outbox n = { reply := none, notices := [] } ∧ (∀ m : Slot, m ≠ n → u.outbox m = s.outbox m)
      ∧ (∀ m : Slot, m ≠ n → u.slotRec m = s.slotRec m)
      ∧ ((s.slotRec n).state = .blocked →
          u.slotRec n = { s.slotRec n with seated := false, presence := none } ∧ u.inrush = s.inrush)
      ∧ ((s.slotRec n).state ≠ .blocked →
          u.slotRec n =
            { state := .empty, seated := false, presence := none, switch := false, key := none, blanking := none,
              fault := none, stable := none, cooldown := none, trips := (s.slotRec n).trips }
          ∧ u.inrush = s.inrush.filter (· != n))

/-- The head of the Inrush Queue turns on at a tick, in OPERATING, with the INRUSH spacing passed: its switch is on, its
ENABLING entries are ACTIVE or REDUCED at their held levels, the blanking and stable timers run and the instant is recorded;
nothing else changes (R152, R153). -/
def Obligations.TurnOnOfTheHead : Prop :=
  ∀ (n : Slot) (rest : List Slot) (s : State), ConfigOk s → s.inrush = n :: rest → s.supply = .operating →
    atTick s = true → (∀ t, s.lastOn = some t → t + activeItem s .inrush ≤ ticks s) →
    ∃ t, exec .turnOn s = .next t
      ∧ t = { s with table := t.table, slots := t.slots, inrush := rest.filter (· != n), lastOn := some (ticks s) }
      ∧ (∀ i : Idx, t.entry i =
          if (s.entry i).slot = n ∧ (s.entry i).state = .enabling then
            { s.entry i with state := if (s.entry i).held = (s.entry i).requested then .active else .reduced }
          else s.entry i)
      ∧ (∀ m : Slot, m ≠ n → t.slotRec m = s.slotRec m)
      ∧ t.slotRec n =
          { s.slotRec n with
            state := .on, switch := true, key := none, fault := none
            blanking := if activeItem s .blank = 0 then none else some (ticks s + activeItem s .blank)
            stable := some (ticks s + 1000 * activeItem s .stable) }

/-- A trip turns the switch off, raises the count, retires the slot's standing entries with cause FAULT and makes the slot
BLOCKED at the trip limit and TRIPPED with its cooldown otherwise, with SLOT_TRIP (and SLOT_BLOCK) raised and then a rebalance
(R155). -/
def Obligations.TripOfASlot : Prop :=
  ∀ (n : Slot) (s : State), (s.slotRec n).state = .on → due s (s.slotRec n).fault = true →
    (let r := s.slotRec n
     let off := { r with switch := false, blanking := none, fault := none, stable := none, key := none,
                         trips := r.trips + 1 }
     let blocked := retireSlot .fault n (s.setSlot n { off with state := .blocked })
     let tripped := retireSlot .fault n (s.setSlot n
       { off with state := .tripped, cooldown := some (firstTick s + 100 * activeItem s .cooldown) })
     (activeItem s .triplim ≤ r.trips + 1 →
       exec (.trip n) s = .next (judgeDeficit (rebalance { blocked with events := s.events ||| 0x010 ||| 0x020 })))
     ∧ (r.trips + 1 < activeItem s .triplim →
       exec (.trip n) s = .next (judgeDeficit (rebalance { tripped with events := s.events ||| 0x010 }))))

/-- The expiries of the blanking timer (R154), the cooldown and the stable timer (R156): blanking stops; a TRIPPED slot becomes
IDLE with its trip count kept; the trip count becomes 0. Nothing else changes. -/
def Obligations.SlotTimerExpiries : Prop :=
  ∀ (n : Slot) (s : State),
    (due s (s.slotRec n).blanking = true →
      exec (.blankingTimerExpiry n) s = .next (s.setSlot n { s.slotRec n with blanking := none }))
    ∧ ((s.slotRec n).state = .tripped → due s (s.slotRec n).cooldown = true →
      exec (.cooldownExpiry n) s = .next (s.setSlot n { s.slotRec n with state := .idle, cooldown := none }))
    ∧ (due s (s.slotRec n).stable = true →
      exec (.stableTimerExpiry n) s = .next (s.setSlot n { s.slotRec n with trips := 0, stable := none }))

/-! ## Expiries of an entry's timers -/

/-- An offer lapses at the end of its window (R40) and a CLOSED notice is dropped at the delivery limit, freeing its entry
with NOTICE_DROP (R112); rebalance follows. -/
def Obligations.LapseAndDeliveryLimit : Prop :=
  ∀ (i : Idx) (s : State), due s (s.entry i).deadline = true →
    ((s.entry i).state = .offered →
      exec (.offerWindowExpiry i) s = .next (judgeDeficit (rebalance (retireEntry .lapsed i s))))
    ∧ ((s.entry i).state = .retired →
      exec (.deliveryLimitExpiry i) s =
        .next (judgeDeficit (rebalance { freeEntry i s with events := s.events ||| 0x080 })))

/-- A reduce grace that expires cuts the slot (R71), and so does a revoke grace while the slot has another live entry; alone,
the entry is retired keeping its cause, without a cut (R77). A cut retires the slot's standing entries with cause ENFORCED,
turns the switch off and makes the slot IDLE, with SLOT_CUT raised and then a rebalance (R80, R159). -/
def Obligations.GraceExpiries : Prop :=
  ∀ (i : Idx) (s : State), due s (s.entry i).deadline = true →
    (let n := (s.entry i).slot
     let cut := fun c : Instr =>
       ∃ u, exec c s = .next (judgeDeficit (rebalance u))
         ∧ DecisionsOnly s u ∧ u.deficit = s.deficit ∧ u.events = s.events ||| 0x040
         ∧ u.table = (retireSlot .enforced n s).table ∧ u.outboxes = (retireSlot .enforced n s).outboxes
         ∧ u.waitQueue = (retireSlot .enforced n s).waitQueue ∧ u.admission = (retireSlot .enforced n s).admission
         ∧ (∀ m : Slot, m ≠ n → u.slotRec m = s.slotRec m)
         ∧ ((s.slotRec n).state = .on ∨ (s.slotRec n).state = .queued ∨ (s.slotRec n).state = .suspended →
             u.slotRec n = { s.slotRec n with state := .idle, switch := false, key := none, blanking := none,
                                              fault := none, stable := none }
             ∧ u.inrush = s.inrush.filter (· != n))
         ∧ ((s.slotRec n).state ≠ .on → (s.slotRec n).state ≠ .queued → (s.slotRec n).state ≠ .suspended →
             u.slotRec n = s.slotRec n ∧ u.inrush = s.inrush)
     ((s.entry i).state = .reducing → cut (.reduceGraceExpiry i))
     ∧ ((s.entry i).state = .revoking →
         (∃ j : Idx, j ≠ i ∧ (s.entry j).slot = n ∧ isLive (s.entry j).state = true) → cut (.revokeGraceExpiry i))
     ∧ ((s.entry i).state = .revoking →
         (∀ j : Idx, j ≠ i → (s.entry j).slot = n → isLive (s.entry j).state = false) →
         exec (.revokeGraceExpiry i) s = .next (judgeDeficit (rebalance (retireWith (s.entry i).cause i s)))))

/-- A lease that has run its full length retires an ENABLING entry with cause LEASE and a rebalance (R93) and revokes a live one
with cause LEASE and none (R94). At the warning point of a period the entry is marked warned and a LEASE_WARN is queued, unless
it is REDUCING with its REDUCE notice pending; at most once in a period, and never where the lease is no longer than the point
(R92). -/
def Obligations.LeaseExpiryAndWarning : Prop :=
  ∀ (i : Idx) (p : LeasePeriod) (s : State), (s.entry i).period = some p → (s.entry i).lease ≠ 0 →
    (let marked := s.setEntry i { s.entry i with period := some { p with warned := true } }
     let pending := ∃ x ∈ (s.outbox (s.entry i).slot).notices, x.index = i ∧ x.kind = .reduce
     (p.start + 1000 * (s.entry i).lease ≤ ticks s →
       ((s.entry i).state = .enabling →
         exec (.leaseExpiry i) s = .next (judgeDeficit (rebalance (retireEntry .lease i s))))
       ∧ ((s.entry i).state = .active ∨ (s.entry i).state = .reduced ∨ (s.entry i).state = .reducing →
         exec (.leaseExpiry i) s = .next (revokeEntry .lease i s)))
     ∧ (countsLease (s.entry i).state = true → p.warned = false → p.warnPoint < (s.entry i).lease →
       p.start + 1000 * ((s.entry i).lease - p.warnPoint) ≤ ticks s →
       ((s.entry i).state = .reducing → pending → exec (.warningPoint i) s = .next marked)
       ∧ (¬ ((s.entry i).state = .reducing ∧ pending) →
           exec (.warningPoint i) s = .next (queueNotice .leaseWarn i 0 marked)))
     ∧ (p.warned = true ∨ (s.entry i).lease ≤ p.warnPoint → exec (.warningPoint i) s = .next s))

/-! ## The Board Controller Port -/

/-- LOOKUP copies the entry ARG0 names into SNAP0 to SNAP7 with the fields of Table 10-4 and gives OK (R170). FIND gives OK with
the index of the slot's non-FREE entry of the tag, or NOT_FOUND (R171). Neither changes anything else. -/
def Obligations.LookupAndFind : Prop :=
  (∀ (i : Idx) (s : State), Inv s → s.inReset = false → s.arg0.toNat = i.val →
    ∃ t, exec .lookup s = .next t ∧ t = { s with cmd := 0x01, result := 0x0100, snap := t.snap }
      ∧ (let e := s.entry i
         let left := (if e.state = .retired then msLeft s e.deadline / 1000 else tensLeft s e.deadline)
         t.snap[0].toNat = e.gen.toNat * 256 + min 255 left
         ∧ t.snap[1].toNat = entryStateCode e.state * 4096 + e.slot.val * 256 + e.tag.val * 16 + e.cls.val * 4
             + (if e.period.isSome then 2 else 0) + (if e.deadline.isSome then 1 else 0)
         ∧ t.snap[2].toNat = causeCodeOf e.cause * 4096 + e.requested
         ∧ t.snap[3].toNat = positionIn s.waitQueue i * 1024 + e.floor
         ∧ t.snap[4].toNat = positionIn s.admission i * 1024 + e.held
         ∧ t.snap[5].toNat = i.val * 2048 + (if e.target.isSome then 1024 else 0) + e.target.getD 0
         ∧ t.snap[6].toNat = e.lease ∧ t.snap[7].toNat = leaseLeft s e))
  ∧ (∀ (n : Slot) (tag : Tag) (s : State), s.inReset = false → s.arg0.toNat = n.val → s.arg1.toNat = tag.val →
    (∀ i : Idx, SlotLimits s → (s.entry i).state ≠ .free → (s.entry i).slot = n → (s.entry i).tag = tag →
      exec .find s = .next { s with cmd := 0x02, result := 0x0100 + BitVec.ofNat 16 i.val })
    ∧ (¬ HoldsTag s n tag → exec .find s = .next { s with cmd := 0x02, result := 0x0300 }))

/-- RETIRE of a matching handle acts by the entry's state and gives OK; a FREE entry or another generation gives NOT_FOUND and
changes nothing (R172, R75). The result value 0 beside either code is the model's choice (notes/assumptions/24.md). -/
def Obligations.RetireByState : Prop :=
  ∀ (i : Idx) (s : State), s.inReset = false → s.arg0.toNat = i.val → s.arg1.toNat ≤ 255 →
    (let done := fun t : State => exec .retire s = .next { t with cmd := 0x03, result := 0x0100 }
     let matching := (s.entry i).gen.toNat = s.arg1.toNat
     ((s.entry i).state = .free ∨ ¬ matching → exec .retire s = .next { s with cmd := 0x03, result := 0x0300 })
     ∧ (matching → (s.entry i).state = .waiting → done (judgeDeficit (retireEntry .host i s)))
     ∧ (matching → (s.entry i).state = .offered ∨ (s.entry i).state = .enabling →
         done (judgeDeficit (rebalance (retireEntry .host i s))))
     ∧ (matching → (s.entry i).state = .active ∨ (s.entry i).state = .reduced ∨ (s.entry i).state = .reducing →
         done (revokeEntry .host i s))
     ∧ (matching → (s.entry i).state = .revoking → done (s.setEntry i { s.entry i with cause := some .host }))
     ∧ (matching → (s.entry i).state = .retired → done (freeEntry i s)))

/-- PURGE frees every entry and advances the generation of each that was not FREE, empties both lists, clears every outbox,
takes every powered or queued slot to IDLE and ends a deficit; the configuration, the supply, C, the masks, the arguments, the
snapshot, trip counts, presence and the last turn-on stay (R23, R61, R114, R162, R173). -/
def Obligations.PurgeClearsContracts : Prop :=
  ∀ s : State, s.inReset = false → EntriesOk s → ∃ t, exec .purge s = .next t
    ∧ t = { s with
            table := t.table, waitQueue := [], admission := [], outboxes := Vector.replicate 12 { reply := none, notices := [] }
            slots := t.slots, inrush := []
            deficit := false, events := if s.deficit then s.events ||| 0x008 else s.events
            cmd := 0x04, result := 0x0100 }
    ∧ (∀ i : Idx, t.entry i =
        if (s.entry i).state = .free then s.entry i else { blankEntry with gen := (s.entry i).gen + 1 })
    ∧ (∀ n : Slot,
        ((s.slotRec n).state = .on ∨ (s.slotRec n).state = .queued ∨ (s.slotRec n).state = .suspended →
          t.slotRec n = { s.slotRec n with state := .idle, switch := false, key := none, blanking := none, fault := none,
                                           stable := none })
        ∧ ((s.slotRec n).state = .empty ∨ (s.slotRec n).state = .idle ∨ (s.slotRec n).state = .tripped
            ∨ (s.slotRec n).state = .blocked → t.slotRec n = s.slotRec n))

/-- BLOCK retires the slot's standing entries with cause BLOCKED, turns it off and makes it BLOCKED, with SLOT_BLOCK and a
rebalance; UNBLOCK clears the trip count and makes a BLOCKED slot IDLE or EMPTY as it is seated; CLEAR_TRIPS clears the trip
count alone. A BLOCKED slot is left by BLOCK and any other by UNBLOCK. Each gives OK (R160, R161, R174). -/
def Obligations.SlotCommands : Prop :=
  ∀ (n : Slot) (s : State), s.inReset = false → s.arg0.toNat = n.val →
    (let r := s.slotRec n
     ((s.slotRec n).state = .blocked → exec .block s = .next { s with cmd := 0x05, result := 0x0100 })
     ∧ ((s.slotRec n).state ≠ .blocked →
         (let u := retireSlot .blocked n
            { s.setSlot n { r with state := .blocked, switch := false, key := none, blanking := none, fault := none,
                                   stable := none, cooldown := none } with
              inrush := s.inrush.filter (· != n) }
          exec .block s = .next
            { judgeDeficit (rebalance { u with events := s.events ||| 0x020 }) with cmd := 0x05, result := 0x0100 }))
     ∧ (r.state = .blocked →
         exec .unblock s = .next
           { s.setSlot n { r with trips := 0, state := if r.seated then .idle else .empty } with
             cmd := 0x06, result := 0x0100 })
     ∧ (r.state ≠ .blocked → exec .unblock s = .next { s with cmd := 0x06, result := 0x0100 })
     ∧ exec .clearTrips s = .next { s.setSlot n { r with trips := 0 } with cmd := 0x07, result := 0x0100 })

/-- An APPLY of a set with a failing item gives INVALID with the register number of the FIRST failing item and changes nothing
else; an APPLY of a sound set brings it into force with OK, and in OPERATING recomputes C from the new values, with the shed plan
if H − P exceeds it and then rebalance (R168, R143, R49). -/
def Obligations.ApplyChecksThenCopies : Prop :=
  (∀ (cap : Nat) (s : State), recompute cap s =
    rebalance (if cap + pendingTotal s < heldTotal s then shedPlan { s with capacity := cap } else { s with capacity := cap }))
  ∧ ∀ s : State, s.inReset = false →
    (let staged := fun x : Item => (s.staged[itemIndex x]).toNat
     let fails := fun x : Item =>
       staged x < itemMin x ∨ itemMax x < staged x ∨ (x = .t2 ∧ staged .t2 ≤ staged .t1)
         ∨ (x = .t3 ∧ staged .t3 ≤ staged .t2)
     (∀ x : Item, fails x → (∀ y : Item, itemIndex y < itemIndex x → ¬ fails y) →
       exec .apply s = .next { s with cmd := 0x08, result := 0x0240 + BitVec.ofNat 16 (itemIndex x).val })
     ∧ ((∀ x : Item, ¬ fails x) → s.supply ≠ .operating →
       exec .apply s = .next { s with active := s.staged, cmd := 0x08, result := 0x0100 })
     ∧ (∀ (b : Band) (cap : Nat), (∀ x : Item, ¬ fails x) → s.supply = .operating → s.qualified = some b →
       (b = 1 ∧ cap = min (staged .cap1) (staged .ceiling) ∨ b = 2 ∧ cap = min (staged .cap2) (staged .ceiling)
         ∨ b = 3 ∧ cap = min (staged .cap3) (staged .ceiling)) →
       exec .apply s = .next
         { judgeDeficit (recompute cap { s with active := s.staged }) with cmd := 0x08, result := 0x0100 }))

/-- A host command with an argument out of range, or with an unknown code, gives BAD_ARG with value 0 and changes nothing
else (R169). -/
def Obligations.BadArgumentsChangeNothing : Prop :=
  ∀ s : State, s.inReset = false →
    (31 < s.arg0.toNat → exec .lookup s = .next { s with cmd := 0x01, result := 0x0400 })
    ∧ (11 < s.arg0.toNat ∨ 15 < s.arg1.toNat → exec .find s = .next { s with cmd := 0x02, result := 0x0400 })
    ∧ (31 < s.arg0.toNat ∨ 255 < s.arg1.toNat → exec .retire s = .next { s with cmd := 0x03, result := 0x0400 })
    ∧ (11 < s.arg0.toNat →
        exec .block s = .next { s with cmd := 0x05, result := 0x0400 }
        ∧ exec .unblock s = .next { s with cmd := 0x06, result := 0x0400 }
        ∧ exec .clearTrips s = .next { s with cmd := 0x07, result := 0x0400 })
    ∧ (∀ code : Byte, code = 0 ∨ 8 < code.toNat →
        exec (.unknownCommand code) s = .next { s with cmd := code, result := 0x0400 })

/-- A write to EVENTS clears exactly the flags written as 1; a write to EVMASK stores the ten enables; INTn is low exactly while
a flag is set whose enable is set (R175, R176). -/
def Obligations.EventsAndMask : Prop :=
  ∀ (v : Word) (s : State),
    (s.inReset = false → ∃ t, exec (.eventsWrite v) s = .next t ∧ t = { s with events := t.events }
      ∧ ∀ b : Nat, b < 10 → t.events.getLsbD b = (s.events.getLsbD b && !v.getLsbD b))
    ∧ (s.inReset = false → ∃ t, exec (.evmaskWrite v) s = .next t ∧ t = { s with evmask := t.evmask }
      ∧ ∀ b : Nat, b < 10 → t.evmask.getLsbD b = v.getLsbD b)
    ∧ (intLow s = true ↔ ∃ b : Nat, b < 10 ∧ s.events.getLsbD b = true ∧ s.evmask.getLsbD b = true)

/-- A write to a staged item stores the 16 bits written, one to ARG0 or ARG1 the argument, and one to a read-only or unlisted
register nothing (R164, R167). Every register reads as Tables 10-1 and 10-2 give from the state as it stands (R165, R166), and an
unlisted number as 0. A frame runs from a fall to a rise of CSn: SDI is sampled at each rise of SCK, the value of the register
that bits 6 to 0 of the command byte name is captured at the eighth bit, and SDO shifts it out from the next fall, most significant
bit first and then 0, low during the command byte and high-impedance while CSn is high; a write frame of exactly 24 bits is
taken at the rise as its command, and any other frame, or one begun before the end of device reset, changes nothing (R163,
R177). -/
def Obligations.RegisterWrites : Prop :=
  (∀ (r : BitVec 7) (v : Word) (s : State), s.inReset = false →
    (∀ k : Fin 21, r.toNat = 0x40 + k.val →
      ∃ t, exec (.registerWrite r v) s = .next t ∧ t = { s with staged := s.staged.set k.val v } ∧ readRegister t r = v)
    ∧ (r = 0x0A → ∃ t, exec (.registerWrite r v) s = .next t ∧ t = { s with arg0 := v } ∧ readRegister t r = v)
    ∧ (r = 0x0B → ∃ t, exec (.registerWrite r v) s = .next t ∧ t = { s with arg1 := v } ∧ readRegister t r = v)
    ∧ (r.toNat < 0x07 ∨ 0x0B < r.toNat ∧ r.toNat < 0x40 ∨ 0x54 < r.toNat → exec (.registerWrite r v) s = .next s)
    ∧ (0x0C < r.toNat ∧ r.toNat < 0x10 ∨ 0x17 < r.toNat ∧ r.toNat < 0x20 ∨ 0x2B < r.toNat ∧ r.toNat < 0x40
        ∨ 0x54 < r.toNat ∧ r.toNat < 0x60 ∨ 0x74 < r.toNat → readRegister s r = 0))
  -- the registers as they read
  ∧ (∀ s : State,
    readRegister s 0x00 = 0x4B32
    ∧ (readRegister s 0x01).toNat = supplyCode s.supply * 16384
        + (match s.qualified with | none => 0 | some b => b.val * 4096 + 2048) + s.sampled.val * 512
        + (if s.deficit then 256 else 0) + (if windowValid s then 128 else 0) + s.straps.toNat * 16
    ∧ (readRegister s 0x02).toNat = s.railCode.toNat
    ∧ (readRegister s 0x06).toNat = countWhere s (fun e => e.state == .waiting) * 256
        + countWhere s (fun e => e.state == .free)
    ∧ (readRegister s 0x07).toNat = s.events.toNat ∧ (readRegister s 0x08).toNat = s.evmask.toNat
    ∧ (readRegister s 0x09).toNat = s.cmd.toNat
    ∧ readRegister s 0x0A = s.arg0 ∧ readRegister s 0x0B = s.arg1 ∧ readRegister s 0x0C = s.result
    ∧ (∀ k : Fin 8, readRegister s (BitVec.ofNat 7 (0x10 + k.val)) = s.snap[k])
    ∧ (∀ k : Fin 21, readRegister s (BitVec.ofNat 7 (0x40 + k.val)) = s.staged[k]
        ∧ readRegister s (BitVec.ofNat 7 (0x60 + k.val)) = s.active[k])
    ∧ (Inv s →
        (readRegister s 0x03).toNat = s.capacity ∧ (readRegister s 0x04).toNat = heldTotal s
        ∧ (readRegister s 0x05).toNat = pendingTotal s
        ∧ ∀ n : Slot, (readRegister s (BitVec.ofNat 7 (0x20 + n.val))).toNat =
            slotStateCode (s.slotRec n).state * 8192 + (s.slotRec n).trips * 512
              + countWhere s (fun e => e.slot == n && isLive e.state) * 64
              + countWhere s (fun e => e.slot == n && e.state == .enabling) * 8 + (s.outbox n).notices.length))
  -- the frames
  ∧ (∀ s : State, s.inReset = false →
    (let low := { s with pins := { s.pins with csn := false } }
     let high := { s with pins := { s.pins with csn := true }, frame := .closed }
     let risen := fun f : Frame => { s with pins := { s.pins with sck := true }, frame := f }
     (s.pins.csn = true → takeWire (.csn false) s = { low with frame := .command [] })
     ∧ (∀ level : Bool, level = s.pins.csn → takeWire (.csn level) s = s)
     ∧ (∀ level : Bool, takeWire (.sdi level) s = { s with pins := { s.pins with sdi := level } })
     ∧ (∀ level : Bool, level = s.pins.sck → takeWire (.sck level) s = s)
     ∧ (∀ bits : List Bool, s.frame = .command bits → s.pins.sck = false →
         (bits.length < 7 → takeWire (.sck true) s = risen (.command (bits ++ [s.pins.sdi])))
         ∧ (bits.length = 7 →
             (let command := byteOf (bits ++ [s.pins.sdi])
              takeWire (.sck true) s = risen (.data command (readRegister s (command.setWidth 7)) []))))
     ∧ (∀ (command : Byte) (v : Word) (bits : List Bool), s.frame = .data command v bits →
         (s.pins.sck = false → takeWire (.sck true) s = risen (.data command v (bits ++ [s.pins.sdi])))
         ∧ (s.pins.csn = false →
             (∀ c : Instr, spiCommand (8 + bits.length) command (BitVec.ofNat 16 (bitsValue bits)) = some c →
               exec c high = .next (takeWire (.csn true) s))
             ∧ (spiCommand (8 + bits.length) command (BitVec.ofNat 16 (bitsValue bits)) = none →
               takeWire (.csn true) s = high)))
     ∧ ((∀ edges, s.frame ≠ .missed edges) → s.pins.sck = true →
         takeWire (.sck false) s = { s with pins := { s.pins with sck := false } })
     ∧ (s.pins.csn = false → (∀ command v bits, s.frame ≠ .data command v bits) → takeWire (.csn true) s = high)
     ∧ (∀ (level : Bool) (edges : Nat), s.frame = .missed edges → level ≠ s.pins.sck →
         takeWire (.sck level) s = { s with pins := { s.pins with sck := level }, frame := .missed (edges + 1) })
     ∧ (s.frame = .closed → sdo s = none)
     ∧ (∀ bits : List Bool, s.frame = .command bits → sdo s = some false)
     ∧ (∀ (command : Byte) (v : Word) (bits : List Bool), s.frame = .data command v bits →
         (s.pins.sck = true → bits = [] → sdo s = some false)
         ∧ (∀ k : Nat, (s.pins.sck = false ∧ bits.length = k ∨ s.pins.sck = true ∧ bits.length = k + 1) →
             (k < 16 → sdo s = some (v.getMsbD k)) ∧ (16 ≤ k → sdo s = some false)))))
  ∧ (∀ (clocked : Nat) (command : Byte) (v : Word),
    (clocked ≠ 24 ∨ command.msb = true → spiCommand clocked command v = none)
    ∧ (clocked = 24 → command.msb = false → spiCommand clocked command v = some (writeFrame (command.setWidth 7) v)))

/-! ## The shared operations of the Contract Table, the Notice Unit and the Budget Account -/

/-- The deficit flag is H > C as the event leaves them; its begin raises DEFICIT_BEGIN and its end DEFICIT_END; no other flag
moves and nothing else changes (R54, R175). -/
def Obligations.DeficitIsJudged : Prop :=
  ∀ s : State,
    (let t := judgeDeficit s
     t = { s with deficit := t.deficit, events := t.events }
     ∧ (t.deficit = true ↔ s.capacity < heldTotal s)
     ∧ t.events = s.events
         ||| (if s.deficit = false ∧ s.capacity < heldTotal s then 0x004 else 0)
         ||| (if s.deficit = true ∧ heldTotal s ≤ s.capacity then 0x008 else 0))

/-- A reply takes the slot's reply buffer, with the overwritten flag if it displaces an undelivered one (R101). A notice takes
the tail of the queue of its entry's slot in place of any pending notice of the entry, with the entry's generation and tag
(R102, R106). Nothing else changes but the model's item counter (notes/assumptions/9.md). ATTN of a slot is asserted exactly while
its queue holds a notice (R113). -/
def Obligations.OutboxWrites : Prop :=
  ∀ s : State,
    (∀ (n : Slot) (kind : Byte) (st : Status) (named : Option Idx) (gen : BitVec 8) (state : EntryState) (held extra : Nat),
      placeReply n kind st named gen state held extra s =
        { s.setOutbox n
            { reply := some { id := s.nextItem, kind := kind, status := st, overwritten := (s.outbox n).reply.isSome,
                              named := named, gen := gen, state := state, held := held, extra := extra }
              notices := (s.outbox n).notices } with
          nextItem := s.nextItem + 1 })
    ∧ (∀ (k : NoticeKind) (i : Idx) (level : Nat),
      (let t := queueNotice k i level s
       let n := (s.entry i).slot
       t = { s with outboxes := t.outboxes, nextItem := s.nextItem + 1 }
       ∧ (∀ m : Slot, m ≠ n → t.outbox m = s.outbox m)
       ∧ (t.outbox n).reply = (s.outbox n).reply
       ∧ (t.outbox n).notices = (s.outbox n).notices.filter (fun x => x.index != i)
           ++ [{ id := s.nextItem, kind := k, index := i, gen := (s.entry i).gen, tag := (s.entry i).tag, level := level }]
       ∧ attn t n = true))
    ∧ ∀ n : Slot, attn s n = true ↔ (s.outbox n).notices ≠ []

/-- What the shared transitions do: an entry that becomes FREE (R8), RETIRED (R9) or is recalled to WAITING (R10, R33, R64,
R65), each with its lists, its notices and its slot's need (R150); one that enters REDUCING (R69) or REVOKING (R74). -/
def Obligations.EntryTransitions : Prop :=
  ∀ (i : Idx) (s : State),
    (let x := s.entry i
     let n := x.slot
     let others := fun t : State => ContractsOnly s t ∧ (∀ j : Idx, j ≠ i → t.entry j = s.entry j)
       ∧ (∀ m : Slot, m ≠ n → t.outbox m = s.outbox m) ∧ (t.outbox n).reply = (s.outbox n).reply
     let told := fun (t : State) (k : NoticeKind) (level : Nat) =>
       (t.outbox n).notices = (s.outbox n).notices.filter (fun y => y.index != i)
         ++ [{ id := s.nextItem, kind := k, index := i, gen := x.gen, tag := x.tag, level := level }]
     (let t := freeEntry i s
      others t ∧ t.entry i = { blankEntry with gen := x.gen + 1 }
      ∧ t.waitQueue = s.waitQueue.filter (· != i) ∧ t.admission = s.admission.filter (· != i)
      ∧ (t.outbox n).notices = (s.outbox n).notices.filter (fun y => y.index != i) ∧ NeedLost s t i)
     ∧ (∀ c : Cause,
      (let t := retireEntry c i s
       others t
       ∧ t.entry i = { x with state := .retired, cause := some c, held := 0, target := none, period := none,
                              deadline := some (firstTick s + 1000 * activeItem s .deliv) }
       ∧ t.waitQueue = s.waitQueue.filter (· != i) ∧ t.admission = s.admission.filter (· != i)
       ∧ told t .closed 0 ∧ NeedLost s t i))
     ∧ (ListsOk s → x.state = .offered ∨ x.state = .enabling →
      (let t := recallEntry i s
       let untold := x.state = .offered ∧ ∃ y ∈ (s.outbox n).notices, y.index = i ∧ y.kind = .offer
       others t ∧ t.entry i = { x with state := .waiting, held := 0, period := none, deadline := none }
       ∧ t.admission = s.admission.filter (· != i)
       ∧ (∃ ahead behind : List Idx, s.waitQueue = ahead ++ behind ∧ t.waitQueue = ahead ++ i :: behind
           ∧ (∀ j ∈ ahead, x.cls < (s.entry j).cls) ∧ (∀ j ∈ behind, (s.entry j).cls ≤ x.cls))
       ∧ (untold → (t.outbox n).notices =
           (s.outbox n).notices.filter (fun y => !(y.index == i && y.kind == .offer)))
       ∧ (¬ untold → told t .recall 0) ∧ NeedLost s t i))
     ∧ (∀ target : Nat,
      (let t := reduceEntry i target s
       others t
       ∧ t.entry i = { x with state := .reducing, target := some target,
                              deadline := some (firstTick s + 10 * activeItem s .redgrace) }
       ∧ t.waitQueue = s.waitQueue ∧ t.admission = s.admission ∧ t.slots = s.slots ∧ t.inrush = s.inrush
       ∧ told t .reduce target))
     ∧ (∀ c : Cause,
      (let t := revokeEntry c i s
       others t
       ∧ t.entry i = { x with state := .revoking, cause := some c, target := none, period := none,
                              deadline := some (firstTick s + 10 * activeItem s .revgrace) }
       ∧ t.waitQueue = s.waitQueue ∧ t.admission = s.admission ∧ t.slots = s.slots ∧ t.inrush = s.inrush
       ∧ told t .revoke 0)))

/-- The retirement of a slot's entries (a cut, a trip, a BLOCK): every entry of it that is neither FREE nor RETIRED is RETIRED
with the cause, in ascending index order, so that the CLOSED notices stand at the tail in that order; RETIRED entries, other
slots' entries and other outboxes stay (R80, R155, R160). -/
def Obligations.RetirementOfASlot : Prop :=
  ∀ (c : Cause) (n : Slot) (s : State),
    (let t := retireSlot c n s
     let taken := fun i : Idx => ofSlotIn n isStanding (s.entry i)
     ContractsOnly s t
     ∧ (∀ i : Idx, taken i = true →
         t.entry i = { s.entry i with state := .retired, cause := some c, held := 0, target := none, period := none,
                                      deadline := some (firstTick s + 1000 * activeItem s .deliv) })
     ∧ (∀ i : Idx, taken i = false → t.entry i = s.entry i)
     ∧ t.waitQueue = s.waitQueue.filter (fun i => !taken i) ∧ t.admission = s.admission.filter (fun i => !taken i)
     ∧ (∀ m : Slot, m ≠ n → t.outbox m = s.outbox m ∧ t.slotRec m = s.slotRec m)
     ∧ (t.outbox n).reply = (s.outbox n).reply
     ∧ ∃ closed : List Notice,
         (t.outbox n).notices = (s.outbox n).notices.filter (fun x => !taken x.index) ++ closed
         ∧ closed.map Notice.index = allIdx.filter taken
         ∧ ∀ x ∈ closed, x.kind = .closed ∧ x.level = 0 ∧ x.gen = (s.entry x.index).gen ∧ x.tag = (s.entry x.index).tag)

/-- Restoration takes the REDUCED entries and the ENABLING ones below their requested level, class 3 first and then in
Admission Order, and raises each as far as headroom allows, with a RESTORE notice for a REDUCED one (R56, R57). Admission offers
to the head of the Wait Queue while its floor fits, at the smaller of its requested level and the headroom, and stops at the
first head that does not fit (R36, R37). -/
def Obligations.RestorationAndAdmission : Prop :=
  ∀ s : State,
    (restoration s = (restoreOrder s).foldl restoreEntry s
      ∧ (∀ i : Idx, i ∈ restoreOrder s ↔ i ∈ s.admission ∧ ((s.entry i).state = .reduced
            ∨ (s.entry i).state = .enabling ∧ (s.entry i).held < (s.entry i).requested))
      ∧ (s.admission.Nodup → (restoreOrder s).Pairwise fun i j =>
            (s.entry j).cls < (s.entry i).cls
            ∨ (s.entry i).cls = (s.entry j).cls ∧ positionIn s.admission i < positionIn s.admission j))
    ∧ (∀ i : Idx,
        (let x := s.entry i
         let level := min x.requested (x.held + headroom s)
         (headroom s = 0 → restoreEntry s i = s)
         ∧ (0 < headroom s → x.state = .reduced →
             restoreEntry s i = queueNotice .restore i level
               (s.setEntry i { x with held := level, state := if level = x.requested then .active else .reduced }))
         ∧ (0 < headroom s → x.state = .enabling → restoreEntry s i = s.setEntry i { x with held := level })))
    ∧ (∀ (i : Idx) (rest : List Idx),
        (let x := s.entry i
         let level := min x.requested (headroom s)
         (headroom s < x.floor → admitFrom (i :: rest) s = s)
         ∧ (x.floor ≤ headroom s →
             admitFrom (i :: rest) s = admitFrom rest (queueNotice .offer i level
               { s.setEntry i { x with state := .offered, held := level,
                                       deadline := some (firstTick s + 10 * activeItem s .offerw) } with
                 waitQueue := s.waitQueue.filter (· != i)
                 admission := s.admission.filter (· != i) ++ [i] }))))

/-- Rebalance runs only in OPERATING with H < C (R55). It leaves H ≤ C, it leaves a candidate short only if the headroom is
spent, and it leaves the Wait Queue empty or its head with a floor above the headroom (R56, R58). -/
def Obligations.RebalanceSpendsHeadroom : Prop :=
  ∀ s : State,
    (s.supply ≠ .operating ∨ s.capacity ≤ heldTotal s → rebalance s = s)
    ∧ (s.supply = .operating → heldTotal s < s.capacity →
        rebalance s = admitFrom (restoration s).waitQueue (restoration s)
        ∧ (EntriesOk s → ListsOk s →
            (let t := rebalance s
             heldTotal t ≤ t.capacity
             ∧ (headroom t = 0 ∨ ∀ i : Idx, isShort (t.entry i) = false)
             ∧ ∀ (i : Idx) (rest : List Idx), t.waitQueue = i :: rest → headroom t < (t.entry i).floor)))

/-- The shed plan leaves H − P ≤ C, whatever the excess D it starts from, and takes held levels down alone (R63, R49). It stops as
soon as D is 0 or less, and the candidates that remain are left; D is H − P − C as each step finds it (R63). -/
def Obligations.ShedPlanCoversTheExcess : Prop :=
  (∀ s : State, excess s = heldTotal s - pendingTotal s - s.capacity ∧ (excess s = 0 → shedPlan s = s))
  ∧ (∀ (act : Idx → State → State) (i : Idx) (rest : List Idx) (s : State),
      whileExcess act [] s = s
      ∧ (excess s = 0 → whileExcess act (i :: rest) s = s)
      ∧ (0 < excess s → whileExcess act (i :: rest) s = whileExcess act rest (act i s)))
  ∧ ∀ s : State, EntriesOk s → ListsOk s →
    heldTotal (shedPlan s) ≤ pendingTotal (shedPlan s) + s.capacity
    ∧ ContractsOnly s (shedPlan s)
    ∧ ∀ i : Idx, ((shedPlan s).entry i).held = (s.entry i).held
        ∨ ((shedPlan s).entry i).held = 0 ∧ ((shedPlan s).entry i).state = .waiting

/-- The order of the shed plan. Step A recalls the OFFERED and ENABLING entries, class 0 first (R64); then, class by class from 0,
B1 asks the ACTIVE and REDUCED entries above their floors to reduce, each to the larger of its floor and its held level less D
(R66), and B2 revokes the ACTIVE, REDUCED and REDUCING ones (R67). Within a class the newest admitted comes first, and each list
is walked only while D is above 0 (R63). So a powered entry is asked to reduce or to end only when no OFFERED or ENABLING entry is
left, only when no contract of a lower class is left that is not REVOKING, and is revoked only when no contract of its class is
left above its floor that could be reduced. -/
def Obligations.ShedPlanOrder : Prop :=
  (∀ s : State,
    (let newest := fun (l : List Idx) => s.admission.Nodup → l.Pairwise fun i j =>
       (s.entry i).cls < (s.entry j).cls
       ∨ (s.entry i).cls = (s.entry j).cls ∧ positionIn s.admission j < positionIn s.admission i
     shedPlan s = shedRevoke 3 (shedReduce 3 (shedRevoke 2 (shedReduce 2
       (shedRevoke 1 (shedReduce 1 (shedRevoke 0 (shedReduce 0 (shedRecall s))))))))
     ∧ (∃ l : List Idx, shedRecall s = whileExcess recallEntry l s ∧ newest l
         ∧ ∀ i : Idx, i ∈ l ↔ i ∈ s.admission ∧ ((s.entry i).state = .offered ∨ (s.entry i).state = .enabling))
     ∧ ∀ c : Sys2Proof.Class,
         (∃ l : List Idx, newest l
           ∧ shedReduce c s =
               whileExcess (fun i t => reduceEntry i (max (t.entry i).floor ((t.entry i).held - excess t)) t) l s
           ∧ ∀ i : Idx, i ∈ l ↔ i ∈ s.admission ∧ (s.entry i).cls = c
               ∧ ((s.entry i).state = .active ∨ (s.entry i).state = .reduced) ∧ (s.entry i).floor < (s.entry i).held)
         ∧ (∃ l : List Idx, newest l ∧ shedRevoke c s = whileExcess (revokeEntry .shed) l s
           ∧ ∀ i : Idx, i ∈ l ↔ i ∈ s.admission ∧ (s.entry i).cls = c
               ∧ ((s.entry i).state = .active ∨ (s.entry i).state = .reduced ∨ (s.entry i).state = .reducing))))
  ∧ ∀ (s : State) (i j : Idx), EntriesOk s → ListsOk s →
    (let t := shedPlan s
     let asked := t.entry i ≠ s.entry i ∧ ((t.entry i).state = .reducing ∨ (t.entry i).state = .revoking)
     (asked → (t.entry j).state ≠ .offered ∧ (t.entry j).state ≠ .enabling)
     ∧ (asked → (t.entry j).cls < (t.entry i).cls →
         (t.entry j).state ≠ .active ∧ (t.entry j).state ≠ .reduced ∧ (t.entry j).state ≠ .reducing)
     ∧ (asked → (t.entry i).state = .revoking → (t.entry j).cls = (t.entry i).cls →
         (t.entry j).state = .active ∨ (t.entry j).state = .reduced → (t.entry j).held ≤ (t.entry j).floor))

/-! ## Rules of the whole machine -/

/-- No entry enters OFFERED and no held level rises in an event, a command or a change of a pin, that leaves the supply out of
OPERATING or H above C (R38). -/
def Obligations.NoLevelRisesWithoutBudget : Prop :=
  ∀ s t : State, Inv s → (∃ c, exec c s = .next t) ∨ (∃ w, takeWire w s = t) →
    t.supply ≠ .operating ∨ t.capacity < heldTotal t →
    ∀ i : Idx, (t.entry i).held ≤ (s.entry i).held
      ∧ ((t.entry i).state = .offered → (s.entry i).state = .offered)

/-- A generation is 0 after device reset, advances by one, modulo 256, exactly when its entry becomes FREE from another state,
and changes at no other event (R12). Device reset, as the row or as the fall of RSTn, sets it to 0. A row of the bus that begins
with a START is two events: what the START ends, and the row's own. -/
def Obligations.GenerationsCountFreeings : Prop :=
  (∀ (k : BitVec 3) (s : State) (i : Idx), ∃ t, exec (.deviceReset k) s = .next t ∧ (t.entry i).gen = 0)
  ∧ (∀ (s : State) (i : Idx), Inv s → ((takeWire .rstnLow s).entry i).gen = 0)
  ∧ (let counts := fun s t : State => ∀ i : Idx,
       ((s.entry i).state ≠ .free ∧ (t.entry i).state = .free → (t.entry i).gen = (s.entry i).gen + 1)
       ∧ (¬ ((s.entry i).state ≠ .free ∧ (t.entry i).state = .free) → (t.entry i).gen = (s.entry i).gen)
     (∀ (c : Instr) (s t : State), Inv s → (∀ k, c ≠ .deviceReset k) → exec c s = .next t →
       (opensTransaction c = false → counts s t)
       ∧ (opensTransaction c = true → counts s (startSeen s) ∧ counts (startSeen s) t))
     ∧ ∀ (w : Wire) (s : State), Inv s → w ≠ .rstnLow → counts s (takeWire w s))

/-- But for DEVICE_RESET, an event flag is cleared by EVENTS_WRITE alone (R175), EVMASK is written by EVMASK_WRITE alone (R176),
the staged set and the arguments by REGISTER_WRITE alone (R167, R169), the configuration in force by APPLY alone (R167), and the
snapshot by LOOKUP alone (R170); the strap value stays (R116). No change of a pin touches them, but for the rise of CSn, which
takes a frame, and device reset by RSTn. -/
def Obligations.RegistersKeepTheirValues : Prop :=
  (∀ (c : Instr) (s t : State), c.wellFormed = true → (∀ k, c ≠ .deviceReset k) → exec c s = .next t →
    ((∀ v, c ≠ .eventsWrite v) → ∀ b : Nat, s.events.getLsbD b = true → t.events.getLsbD b = true)
    ∧ ((∀ v, c ≠ .evmaskWrite v) → t.evmask = s.evmask)
    ∧ ((∀ r v, c ≠ .registerWrite r v) → t.staged = s.staged ∧ t.arg0 = s.arg0 ∧ t.arg1 = s.arg1)
    ∧ (c ≠ .apply → t.active = s.active)
    ∧ (c ≠ .lookup → t.snap = s.snap)
    ∧ t.straps = s.straps)
  ∧ ∀ (w : Wire) (s : State), w ≠ .csn true → w ≠ .rstnLow → (∀ k, w ≠ .rstnHigh k) →
    (let t := takeWire w s
     (∀ b : Nat, s.events.getLsbD b = true → t.events.getLsbD b = true)
     ∧ t.evmask = s.evmask ∧ t.staged = s.staged ∧ t.arg0 = s.arg0 ∧ t.arg1 = s.arg1 ∧ t.active = s.active
     ∧ t.snap = s.snap ∧ t.straps = s.straps ∧ t.cmd = s.cmd ∧ t.result = s.result)

/-! ## The invariant, kept by every step -/

/-- Every step keeps the configuration in its ranges and the supply state, bands and timers in agreement (R131 to R135, R168). -/
def Obligations.ConfigAndSupplyAreKept : Prop :=
  ∀ s t : State, ConfigOk s → SupplyOk s → step s = .next t → ConfigOk t ∧ SupplyOk t

/-- Every step keeps the two lists: the Wait Queue holds exactly the WAITING entries, each once and in class order, the
Admission Order exactly the admitted ones, each once (R7, R18, R20, R32). -/
def Obligations.ListsAreKept : Prop := ∀ s t : State, ListsOk s → step s = .next t → ListsOk t

/-- Every step keeps every entry's fields as its state needs them, at most four entries to a slot and no tag twice in one
(R2 to R6, R16, R17). -/
def Obligations.EntriesAreKept : Prop := ∀ s t : State, Inv s → step s = .next t → EntriesOk t ∧ SlotLimits t

/-- Every step leaves H − P ≤ C, the deficit flag equal to H > C, and C as the supply state gives it (R47, R52, R54). -/
def Obligations.BudgetIsKept : Prop := ∀ s t : State, Inv s → step s = .next t → BudgetOk t ∧ CapacityOk t

/-- Every step keeps every slot's record as its state and its need require, SWEN high exactly in ON, and the Inrush Queue equal to
the QUEUED slots in key order (R145, R151, R166). -/
def Obligations.SlotsAreKept : Prop :=
  ∀ s t : State, Inv s → step s = .next t → SlotsOk t ∧ ∀ n : Slot, swen t n = true ↔ (t.slotRec n).state = .on

/-- Every step keeps the outboxes: at most one notice for an entry, each of an entry of the slot in the state its kind needs,
and a CLOSED notice for every RETIRED entry (R102, R104 to R107). -/
def Obligations.NoticesAreKept : Prop := ∀ s t : State, Inv s → step s = .next t → NoticesOk t

/-- Every step keeps every running timer at or before its expiry instant (R1), and the two ports in order: the interface holds what
Table 7-2 gives its state, it takes part in a transaction only with a valid window, the stall timer runs exactly while it does so
with SCL low, and a frame is open exactly while CSn is low and RSTn high (R117 to R119, R128, R163). While RSTn is held low every
block stays in its reset state (R22, R177). -/
def Obligations.TimersAreKept : Prop := ∀ s t : State, Inv s → step s = .next t → TimersOk t ∧ PortsOk t ∧ ResetOk t

end
end

