-- ==== Sys2Proof/Laws/State.lean ====
section
/-! SUPPORT. What each update of State leaves unchanged, field by field, and reading after writing for the three vectors of
records. -/

namespace Sys2Proof.Machine

/-! ## setEntry -/

@[simp] theorem setEntry_pending (s : State) (i : Idx) (e : Entry) : (s.setEntry i e).pending = s.pending := rfl
@[simp] theorem setEntry_now (s : State) (i : Idx) (e : Entry) : (s.setEntry i e).now = s.now := rfl
@[simp] theorem setEntry_ties (s : State) (i : Idx) (e : Entry) : (s.setEntry i e).ties = s.ties := rfl
@[simp] theorem setEntry_waitQueue (s : State) (i : Idx) (e : Entry) : (s.setEntry i e).waitQueue = s.waitQueue := rfl
@[simp] theorem setEntry_admission (s : State) (i : Idx) (e : Entry) : (s.setEntry i e).admission = s.admission := rfl
@[simp] theorem setEntry_capacity (s : State) (i : Idx) (e : Entry) : (s.setEntry i e).capacity = s.capacity := rfl
@[simp] theorem setEntry_deficit (s : State) (i : Idx) (e : Entry) : (s.setEntry i e).deficit = s.deficit := rfl
@[simp] theorem setEntry_outboxes (s : State) (i : Idx) (e : Entry) : (s.setEntry i e).outboxes = s.outboxes := rfl
@[simp] theorem setEntry_nextItem (s : State) (i : Idx) (e : Entry) : (s.setEntry i e).nextItem = s.nextItem := rfl
@[simp] theorem setEntry_straps (s : State) (i : Idx) (e : Entry) : (s.setEntry i e).straps = s.straps := rfl
@[simp] theorem setEntry_bus (s : State) (i : Idx) (e : Entry) : (s.setEntry i e).bus = s.bus := rfl
@[simp] theorem setEntry_bits (s : State) (i : Idx) (e : Entry) : (s.setEntry i e).bits = s.bits := rfl
@[simp] theorem setEntry_clock (s : State) (i : Idx) (e : Entry) : (s.setEntry i e).clock = s.clock := rfl
@[simp] theorem setEntry_stallTimer (s : State) (i : Idx) (e : Entry) : (s.setEntry i e).stallTimer = s.stallTimer := rfl
@[simp] theorem setEntry_railCode (s : State) (i : Idx) (e : Entry) : (s.setEntry i e).railCode = s.railCode := rfl
@[simp] theorem setEntry_sampled (s : State) (i : Idx) (e : Entry) : (s.setEntry i e).sampled = s.sampled := rfl
@[simp] theorem setEntry_qualified (s : State) (i : Idx) (e : Entry) : (s.setEntry i e).qualified = s.qualified := rfl
@[simp] theorem setEntry_candidate (s : State) (i : Idx) (e : Entry) : (s.setEntry i e).candidate = s.candidate := rfl
@[simp] theorem setEntry_qualTimer (s : State) (i : Idx) (e : Entry) : (s.setEntry i e).qualTimer = s.qualTimer := rfl
@[simp] theorem setEntry_supply (s : State) (i : Idx) (e : Entry) : (s.setEntry i e).supply = s.supply := rfl
@[simp] theorem setEntry_holdTimer (s : State) (i : Idx) (e : Entry) : (s.setEntry i e).holdTimer = s.holdTimer := rfl
@[simp] theorem setEntry_slots (s : State) (i : Idx) (e : Entry) : (s.setEntry i e).slots = s.slots := rfl
@[simp] theorem setEntry_inrush (s : State) (i : Idx) (e : Entry) : (s.setEntry i e).inrush = s.inrush := rfl
@[simp] theorem setEntry_lastOn (s : State) (i : Idx) (e : Entry) : (s.setEntry i e).lastOn = s.lastOn := rfl
@[simp] theorem setEntry_staged (s : State) (i : Idx) (e : Entry) : (s.setEntry i e).staged = s.staged := rfl
@[simp] theorem setEntry_active (s : State) (i : Idx) (e : Entry) : (s.setEntry i e).active = s.active := rfl
@[simp] theorem setEntry_events (s : State) (i : Idx) (e : Entry) : (s.setEntry i e).events = s.events := rfl
@[simp] theorem setEntry_evmask (s : State) (i : Idx) (e : Entry) : (s.setEntry i e).evmask = s.evmask := rfl
@[simp] theorem setEntry_cmd (s : State) (i : Idx) (e : Entry) : (s.setEntry i e).cmd = s.cmd := rfl
@[simp] theorem setEntry_arg0 (s : State) (i : Idx) (e : Entry) : (s.setEntry i e).arg0 = s.arg0 := rfl
@[simp] theorem setEntry_arg1 (s : State) (i : Idx) (e : Entry) : (s.setEntry i e).arg1 = s.arg1 := rfl
@[simp] theorem setEntry_result (s : State) (i : Idx) (e : Entry) : (s.setEntry i e).result = s.result := rfl
@[simp] theorem setEntry_snap (s : State) (i : Idx) (e : Entry) : (s.setEntry i e).snap = s.snap := rfl
@[simp] theorem setEntry_frame (s : State) (i : Idx) (e : Entry) : (s.setEntry i e).frame = s.frame := rfl
@[simp] theorem setEntry_inReset (s : State) (i : Idx) (e : Entry) : (s.setEntry i e).inReset = s.inReset := rfl
@[simp] theorem setEntry_pins (s : State) (i : Idx) (e : Entry) : (s.setEntry i e).pins = s.pins := rfl
@[simp] theorem setEntry_wires (s : State) (i : Idx) (e : Entry) : (s.setEntry i e).wires = s.wires := rfl

/-! ## setOutbox -/

@[simp] theorem setOutbox_pending (s : State) (n : Slot) (o : Outbox) : (s.setOutbox n o).pending = s.pending := rfl
@[simp] theorem setOutbox_now (s : State) (n : Slot) (o : Outbox) : (s.setOutbox n o).now = s.now := rfl
@[simp] theorem setOutbox_ties (s : State) (n : Slot) (o : Outbox) : (s.setOutbox n o).ties = s.ties := rfl
@[simp] theorem setOutbox_table (s : State) (n : Slot) (o : Outbox) : (s.setOutbox n o).table = s.table := rfl
@[simp] theorem setOutbox_waitQueue (s : State) (n : Slot) (o : Outbox) : (s.setOutbox n o).waitQueue = s.waitQueue := rfl
@[simp] theorem setOutbox_admission (s : State) (n : Slot) (o : Outbox) : (s.setOutbox n o).admission = s.admission := rfl
@[simp] theorem setOutbox_capacity (s : State) (n : Slot) (o : Outbox) : (s.setOutbox n o).capacity = s.capacity := rfl
@[simp] theorem setOutbox_deficit (s : State) (n : Slot) (o : Outbox) : (s.setOutbox n o).deficit = s.deficit := rfl
@[simp] theorem setOutbox_nextItem (s : State) (n : Slot) (o : Outbox) : (s.setOutbox n o).nextItem = s.nextItem := rfl
@[simp] theorem setOutbox_straps (s : State) (n : Slot) (o : Outbox) : (s.setOutbox n o).straps = s.straps := rfl
@[simp] theorem setOutbox_bus (s : State) (n : Slot) (o : Outbox) : (s.setOutbox n o).bus = s.bus := rfl
@[simp] theorem setOutbox_bits (s : State) (n : Slot) (o : Outbox) : (s.setOutbox n o).bits = s.bits := rfl
@[simp] theorem setOutbox_clock (s : State) (n : Slot) (o : Outbox) : (s.setOutbox n o).clock = s.clock := rfl
@[simp] theorem setOutbox_stallTimer (s : State) (n : Slot) (o : Outbox) : (s.setOutbox n o).stallTimer = s.stallTimer := rfl
@[simp] theorem setOutbox_railCode (s : State) (n : Slot) (o : Outbox) : (s.setOutbox n o).railCode = s.railCode := rfl
@[simp] theorem setOutbox_sampled (s : State) (n : Slot) (o : Outbox) : (s.setOutbox n o).sampled = s.sampled := rfl
@[simp] theorem setOutbox_qualified (s : State) (n : Slot) (o : Outbox) : (s.setOutbox n o).qualified = s.qualified := rfl
@[simp] theorem setOutbox_candidate (s : State) (n : Slot) (o : Outbox) : (s.setOutbox n o).candidate = s.candidate := rfl
@[simp] theorem setOutbox_qualTimer (s : State) (n : Slot) (o : Outbox) : (s.setOutbox n o).qualTimer = s.qualTimer := rfl
@[simp] theorem setOutbox_supply (s : State) (n : Slot) (o : Outbox) : (s.setOutbox n o).supply = s.supply := rfl
@[simp] theorem setOutbox_holdTimer (s : State) (n : Slot) (o : Outbox) : (s.setOutbox n o).holdTimer = s.holdTimer := rfl
@[simp] theorem setOutbox_slots (s : State) (n : Slot) (o : Outbox) : (s.setOutbox n o).slots = s.slots := rfl
@[simp] theorem setOutbox_inrush (s : State) (n : Slot) (o : Outbox) : (s.setOutbox n o).inrush = s.inrush := rfl
@[simp] theorem setOutbox_lastOn (s : State) (n : Slot) (o : Outbox) : (s.setOutbox n o).lastOn = s.lastOn := rfl
@[simp] theorem setOutbox_staged (s : State) (n : Slot) (o : Outbox) : (s.setOutbox n o).staged = s.staged := rfl
@[simp] theorem setOutbox_active (s : State) (n : Slot) (o : Outbox) : (s.setOutbox n o).active = s.active := rfl
@[simp] theorem setOutbox_events (s : State) (n : Slot) (o : Outbox) : (s.setOutbox n o).events = s.events := rfl
@[simp] theorem setOutbox_evmask (s : State) (n : Slot) (o : Outbox) : (s.setOutbox n o).evmask = s.evmask := rfl
@[simp] theorem setOutbox_cmd (s : State) (n : Slot) (o : Outbox) : (s.setOutbox n o).cmd = s.cmd := rfl
@[simp] theorem setOutbox_arg0 (s : State) (n : Slot) (o : Outbox) : (s.setOutbox n o).arg0 = s.arg0 := rfl
@[simp] theorem setOutbox_arg1 (s : State) (n : Slot) (o : Outbox) : (s.setOutbox n o).arg1 = s.arg1 := rfl
@[simp] theorem setOutbox_result (s : State) (n : Slot) (o : Outbox) : (s.setOutbox n o).result = s.result := rfl
@[simp] theorem setOutbox_snap (s : State) (n : Slot) (o : Outbox) : (s.setOutbox n o).snap = s.snap := rfl
@[simp] theorem setOutbox_frame (s : State) (n : Slot) (o : Outbox) : (s.setOutbox n o).frame = s.frame := rfl
@[simp] theorem setOutbox_inReset (s : State) (n : Slot) (o : Outbox) : (s.setOutbox n o).inReset = s.inReset := rfl
@[simp] theorem setOutbox_pins (s : State) (n : Slot) (o : Outbox) : (s.setOutbox n o).pins = s.pins := rfl
@[simp] theorem setOutbox_wires (s : State) (n : Slot) (o : Outbox) : (s.setOutbox n o).wires = s.wires := rfl

/-! ## setSlot -/

@[simp] theorem setSlot_pending (s : State) (n : Slot) (r : SlotRec) : (s.setSlot n r).pending = s.pending := rfl
@[simp] theorem setSlot_now (s : State) (n : Slot) (r : SlotRec) : (s.setSlot n r).now = s.now := rfl
@[simp] theorem setSlot_ties (s : State) (n : Slot) (r : SlotRec) : (s.setSlot n r).ties = s.ties := rfl
@[simp] theorem setSlot_table (s : State) (n : Slot) (r : SlotRec) : (s.setSlot n r).table = s.table := rfl
@[simp] theorem setSlot_waitQueue (s : State) (n : Slot) (r : SlotRec) : (s.setSlot n r).waitQueue = s.waitQueue := rfl
@[simp] theorem setSlot_admission (s : State) (n : Slot) (r : SlotRec) : (s.setSlot n r).admission = s.admission := rfl
@[simp] theorem setSlot_capacity (s : State) (n : Slot) (r : SlotRec) : (s.setSlot n r).capacity = s.capacity := rfl
@[simp] theorem setSlot_deficit (s : State) (n : Slot) (r : SlotRec) : (s.setSlot n r).deficit = s.deficit := rfl
@[simp] theorem setSlot_outboxes (s : State) (n : Slot) (r : SlotRec) : (s.setSlot n r).outboxes = s.outboxes := rfl
@[simp] theorem setSlot_nextItem (s : State) (n : Slot) (r : SlotRec) : (s.setSlot n r).nextItem = s.nextItem := rfl
@[simp] theorem setSlot_straps (s : State) (n : Slot) (r : SlotRec) : (s.setSlot n r).straps = s.straps := rfl
@[simp] theorem setSlot_bus (s : State) (n : Slot) (r : SlotRec) : (s.setSlot n r).bus = s.bus := rfl
@[simp] theorem setSlot_bits (s : State) (n : Slot) (r : SlotRec) : (s.setSlot n r).bits = s.bits := rfl
@[simp] theorem setSlot_clock (s : State) (n : Slot) (r : SlotRec) : (s.setSlot n r).clock = s.clock := rfl
@[simp] theorem setSlot_stallTimer (s : State) (n : Slot) (r : SlotRec) : (s.setSlot n r).stallTimer = s.stallTimer := rfl
@[simp] theorem setSlot_railCode (s : State) (n : Slot) (r : SlotRec) : (s.setSlot n r).railCode = s.railCode := rfl
@[simp] theorem setSlot_sampled (s : State) (n : Slot) (r : SlotRec) : (s.setSlot n r).sampled = s.sampled := rfl
@[simp] theorem setSlot_qualified (s : State) (n : Slot) (r : SlotRec) : (s.setSlot n r).qualified = s.qualified := rfl
@[simp] theorem setSlot_candidate (s : State) (n : Slot) (r : SlotRec) : (s.setSlot n r).candidate = s.candidate := rfl
@[simp] theorem setSlot_qualTimer (s : State) (n : Slot) (r : SlotRec) : (s.setSlot n r).qualTimer = s.qualTimer := rfl
@[simp] theorem setSlot_supply (s : State) (n : Slot) (r : SlotRec) : (s.setSlot n r).supply = s.supply := rfl
@[simp] theorem setSlot_holdTimer (s : State) (n : Slot) (r : SlotRec) : (s.setSlot n r).holdTimer = s.holdTimer := rfl
@[simp] theorem setSlot_inrush (s : State) (n : Slot) (r : SlotRec) : (s.setSlot n r).inrush = s.inrush := rfl
@[simp] theorem setSlot_lastOn (s : State) (n : Slot) (r : SlotRec) : (s.setSlot n r).lastOn = s.lastOn := rfl
@[simp] theorem setSlot_staged (s : State) (n : Slot) (r : SlotRec) : (s.setSlot n r).staged = s.staged := rfl
@[simp] theorem setSlot_active (s : State) (n : Slot) (r : SlotRec) : (s.setSlot n r).active = s.active := rfl
@[simp] theorem setSlot_events (s : State) (n : Slot) (r : SlotRec) : (s.setSlot n r).events = s.events := rfl
@[simp] theorem setSlot_evmask (s : State) (n : Slot) (r : SlotRec) : (s.setSlot n r).evmask = s.evmask := rfl
@[simp] theorem setSlot_cmd (s : State) (n : Slot) (r : SlotRec) : (s.setSlot n r).cmd = s.cmd := rfl
@[simp] theorem setSlot_arg0 (s : State) (n : Slot) (r : SlotRec) : (s.setSlot n r).arg0 = s.arg0 := rfl
@[simp] theorem setSlot_arg1 (s : State) (n : Slot) (r : SlotRec) : (s.setSlot n r).arg1 = s.arg1 := rfl
@[simp] theorem setSlot_result (s : State) (n : Slot) (r : SlotRec) : (s.setSlot n r).result = s.result := rfl
@[simp] theorem setSlot_snap (s : State) (n : Slot) (r : SlotRec) : (s.setSlot n r).snap = s.snap := rfl
@[simp] theorem setSlot_frame (s : State) (n : Slot) (r : SlotRec) : (s.setSlot n r).frame = s.frame := rfl
@[simp] theorem setSlot_inReset (s : State) (n : Slot) (r : SlotRec) : (s.setSlot n r).inReset = s.inReset := rfl
@[simp] theorem setSlot_pins (s : State) (n : Slot) (r : SlotRec) : (s.setSlot n r).pins = s.pins := rfl
@[simp] theorem setSlot_wires (s : State) (n : Slot) (r : SlotRec) : (s.setSlot n r).wires = s.wires := rfl

/-! ## Reading after writing -/

@[simp] theorem entry_setEntry_same (s : State) (i : Idx) (e : Entry) : (s.setEntry i e).entry i = e := by
  simp [State.entry, State.setEntry]

theorem entry_setEntry_ne (s : State) {i j : Idx} (e : Entry) (h : j ≠ i) : (s.setEntry i e).entry j = s.entry j := by
  have : i.val ≠ j.val := fun h' => h (Fin.ext h'.symm)
  simp [State.entry, State.setEntry, this]

theorem entry_setEntry (s : State) (i j : Idx) (e : Entry) :
    (s.setEntry i e).entry j = if j = i then e else s.entry j := by
  split
  · next h => rw [h, entry_setEntry_same]
  · next h => exact entry_setEntry_ne s e h

@[simp] theorem outbox_setOutbox_same (s : State) (n : Slot) (o : Outbox) : (s.setOutbox n o).outbox n = o := by
  simp [State.outbox, State.setOutbox]

theorem outbox_setOutbox_ne (s : State) {n m : Slot} (o : Outbox) (h : m ≠ n) :
    (s.setOutbox n o).outbox m = s.outbox m := by
  have : n.val ≠ m.val := fun h' => h (Fin.ext h'.symm)
  simp [State.outbox, State.setOutbox, this]

theorem outbox_setOutbox (s : State) (n m : Slot) (o : Outbox) :
    (s.setOutbox n o).outbox m = if m = n then o else s.outbox m := by
  split
  · next h => rw [h, outbox_setOutbox_same]
  · next h => exact outbox_setOutbox_ne s o h

@[simp] theorem slotRec_setSlot_same (s : State) (n : Slot) (r : SlotRec) : (s.setSlot n r).slotRec n = r := by
  simp [State.slotRec, State.setSlot]

theorem slotRec_setSlot_ne (s : State) {n m : Slot} (r : SlotRec) (h : m ≠ n) :
    (s.setSlot n r).slotRec m = s.slotRec m := by
  have : n.val ≠ m.val := fun h' => h (Fin.ext h'.symm)
  simp [State.slotRec, State.setSlot, this]

theorem slotRec_setSlot (s : State) (n m : Slot) (r : SlotRec) :
    (s.setSlot n r).slotRec m = if m = n then r else s.slotRec m := by
  split
  · next h => rw [h, slotRec_setSlot_same]
  · next h => exact slotRec_setSlot_ne s r h

/-! ## A reader of one vector sees through updates of the others -/

@[simp] theorem entry_setOutbox (s : State) (n : Slot) (o : Outbox) (i : Idx) :
    (s.setOutbox n o).entry i = s.entry i := rfl
@[simp] theorem entry_setSlot (s : State) (n : Slot) (r : SlotRec) (i : Idx) : (s.setSlot n r).entry i = s.entry i := rfl
@[simp] theorem outbox_setEntry (s : State) (i : Idx) (e : Entry) (n : Slot) :
    (s.setEntry i e).outbox n = s.outbox n := rfl
@[simp] theorem outbox_setSlot (s : State) (m : Slot) (r : SlotRec) (n : Slot) :
    (s.setSlot m r).outbox n = s.outbox n := rfl
@[simp] theorem slotRec_setEntry (s : State) (i : Idx) (e : Entry) (n : Slot) :
    (s.setEntry i e).slotRec n = s.slotRec n := rfl
@[simp] theorem slotRec_setOutbox (s : State) (m : Slot) (o : Outbox) (n : Slot) :
    (s.setOutbox m o).slotRec n = s.slotRec n := rfl

/-- The entries depend on the table alone. -/
theorem entry_of_table {s t : State} (h : t.table = s.table) (i : Idx) : t.entry i = s.entry i := by
  simp only [State.entry, h]

/-- The outboxes depend on their vector alone. -/
theorem outbox_of_outboxes {s t : State} (h : t.outboxes = s.outboxes) (n : Slot) : t.outbox n = s.outbox n := by
  simp only [State.outbox, h]

/-- The slot records depend on their vector alone. -/
theorem slotRec_of_slots {s t : State} (h : t.slots = s.slots) (n : Slot) : t.slotRec n = s.slotRec n := by
  simp only [State.slotRec, h]

/-- Two tables with the same entries are equal. -/
theorem table_ext {s t : State} (h : ∀ i, t.entry i = s.entry i) : t.table = s.table := by
  apply Vector.ext
  intro k hk
  exact h ⟨k, hk⟩

/-- Two outbox vectors with the same outboxes are equal. -/
theorem outboxes_ext {s t : State} (h : ∀ n, t.outbox n = s.outbox n) : t.outboxes = s.outboxes := by
  apply Vector.ext
  intro k hk
  exact h ⟨k, hk⟩

/-- Two slot vectors with the same records are equal. -/
theorem slots_ext {s t : State} (h : ∀ n, t.slotRec n = s.slotRec n) : t.slots = s.slots := by
  apply Vector.ext
  intro k hk
  exact h ⟨k, hk⟩

theorem mem_allIdx (i : Idx) : i ∈ allIdx := List.mem_finRange i

theorem mem_allSlots (n : Slot) : n ∈ allSlots := List.mem_finRange n

theorem nodup_allIdx : allIdx.Nodup := List.nodup_finRange 32

theorem mem_entriesWhere (s : State) (p : Entry → Bool) (i : Idx) : i ∈ entriesWhere s p ↔ p (s.entry i) = true := by
  simp [entriesWhere, mem_allIdx]

end Sys2Proof.Machine
end

