-- ==== Sys2Proof/Laws/Frames.lean ====
section
/-! SUPPORT. What each shared operation leaves unchanged: one ContractsOnly or DecisionsOnly lemma per operation. -/

namespace Sys2Proof.Machine

theorem ContractsOnly.refl (s : State) : ContractsOnly s s := by constructor <;> rfl

theorem ContractsOnly.trans {s t u : State} (h : ContractsOnly s t) (k : ContractsOnly t u) : ContractsOnly s u := by
  constructor
  all_goals first
    | exact k.pending.trans h.pending | exact k.now.trans h.now | exact k.ties.trans h.ties
    | exact k.capacity.trans h.capacity | exact k.deficit.trans h.deficit | exact k.straps.trans h.straps
    | exact k.bus.trans h.bus | exact k.railCode.trans h.railCode | exact k.sampled.trans h.sampled
    | exact k.qualified.trans h.qualified | exact k.candidate.trans h.candidate | exact k.qualTimer.trans h.qualTimer
    | exact k.supply.trans h.supply | exact k.holdTimer.trans h.holdTimer | exact k.lastOn.trans h.lastOn
    | exact k.staged.trans h.staged | exact k.active.trans h.active | exact k.events.trans h.events
    | exact k.evmask.trans h.evmask | exact k.cmd.trans h.cmd | exact k.arg0.trans h.arg0 | exact k.arg1.trans h.arg1
    | exact k.result.trans h.result | exact k.snap.trans h.snap
    | exact k.bits.trans h.bits | exact k.clock.trans h.clock | exact k.stallTimer.trans h.stallTimer
    | exact k.inReset.trans h.inReset
    | exact k.frame.trans h.frame | exact k.pins.trans h.pins | exact k.wires.trans h.wires

theorem DecisionsOnly.refl (s : State) : DecisionsOnly s s := by constructor <;> rfl

theorem DecisionsOnly.trans {s t u : State} (h : DecisionsOnly s t) (k : DecisionsOnly t u) : DecisionsOnly s u := by
  constructor
  all_goals first
    | exact k.pending.trans h.pending | exact k.now.trans h.now | exact k.ties.trans h.ties
    | exact k.capacity.trans h.capacity | exact k.straps.trans h.straps
    | exact k.bus.trans h.bus | exact k.railCode.trans h.railCode | exact k.sampled.trans h.sampled
    | exact k.qualified.trans h.qualified | exact k.candidate.trans h.candidate | exact k.qualTimer.trans h.qualTimer
    | exact k.supply.trans h.supply | exact k.holdTimer.trans h.holdTimer | exact k.lastOn.trans h.lastOn
    | exact k.staged.trans h.staged | exact k.active.trans h.active
    | exact k.evmask.trans h.evmask | exact k.cmd.trans h.cmd | exact k.arg0.trans h.arg0 | exact k.arg1.trans h.arg1
    | exact k.result.trans h.result | exact k.snap.trans h.snap
    | exact k.bits.trans h.bits | exact k.clock.trans h.clock | exact k.stallTimer.trans h.stallTimer
    | exact k.inReset.trans h.inReset
    | exact k.frame.trans h.frame | exact k.pins.trans h.pins | exact k.wires.trans h.wires

theorem ContractsOnly.decisions {s t : State} (h : ContractsOnly s t) : DecisionsOnly s t :=
  { h with }

/-- A fold of operations that each touch contracts only. -/
theorem ContractsOnly.foldl {α : Type} (f : State → α → State) (h : ∀ s a, ContractsOnly s (f s a)) (l : List α) (s : State) :
    ContractsOnly s (l.foldl f s) := by
  induction l generalizing s with
  | nil => exact .refl s
  | cons a l ih => exact (h s a).trans (ih (f s a))

/-! ## Device reset -/

theorem unlessReset_running {s : State} (h : s.inReset = false) (f : State → State) : unlessReset f s = f s := by
  simp [unlessReset, h]

theorem unlessReset_held {s : State} (h : s.inReset = true) (f : State → State) : unlessReset f s = s := by
  simp [unlessReset, h]

/-- A command is taken, or RSTn is held low and nothing changes. -/
theorem unlessReset_cases (f : State → State) (s : State) : unlessReset f s = f s ∨ unlessReset f s = s := by
  unfold unlessReset
  split
  · exact .inr rfl
  · exact .inl rfl

/-! ## Updates -/

theorem setEntry_only (i : Idx) (e : Entry) (s : State) : ContractsOnly s (s.setEntry i e) := by constructor <;> rfl

theorem setOutbox_only (n : Slot) (o : Outbox) (s : State) : ContractsOnly s (s.setOutbox n o) := by constructor <;> rfl

theorem setSlot_only (n : Slot) (r : SlotRec) (s : State) : ContractsOnly s (s.setSlot n r) := by constructor <;> rfl

theorem setAdmission_only (l : List Idx) (s : State) : ContractsOnly s { s with admission := l } := by constructor <;> rfl

theorem setWaitQueue_only (l : List Idx) (s : State) : ContractsOnly s { s with waitQueue := l } := by constructor <;> rfl

theorem setInrush_only (l : List Slot) (s : State) : ContractsOnly s { s with inrush := l } := by constructor <;> rfl

theorem leaveLists_only (i : Idx) (s : State) : ContractsOnly s (leaveLists i s) := by constructor <;> rfl

theorem leaveInrush_only (n : Slot) (s : State) : ContractsOnly s (leaveInrush n s) := by constructor <;> rfl

theorem keepNotices_only (n : Slot) (p : Notice → Bool) (s : State) : ContractsOnly s (keepNotices n p s) := by
  constructor <;> rfl

theorem dropNotices_only (n : Slot) (i : Idx) (s : State) : ContractsOnly s (dropNotices n i s) := keepNotices_only ..

theorem removeNotice_only (n : Slot) (i : Idx) (k : NoticeKind) (s : State) : ContractsOnly s (removeNotice n i k s) :=
  keepNotices_only ..

theorem queueNotice_only (k : NoticeKind) (i : Idx) (level : Nat) (s : State) :
    ContractsOnly s (queueNotice k i level s) := by constructor <;> rfl

theorem placeReply_only (n : Slot) (kind : Byte) (st : Status) (named : Option Idx) (gen : BitVec 8) (state : EntryState)
    (held extra : Nat) (s : State) : ContractsOnly s (placeReply n kind st named gen state held extra s) := by
  constructor <;> rfl

theorem unpowerSlot_only (n : Slot) (st : SlotState) (s : State) : ContractsOnly s (unpowerSlot n st s) := by
  constructor <;> rfl

theorem judgeNeed_only (n : Slot) (s : State) : ContractsOnly s (judgeNeed n s) := by
  unfold judgeNeed
  split <;> (try split) <;> first | exact .refl s | exact unpowerSlot_only ..

theorem tellNeed_only (e : Entry) (s : State) : ContractsOnly s (tellNeed e s) := by
  unfold tellNeed
  split
  · exact judgeNeed_only ..
  · exact .refl s

/-! ## Transitions of an entry -/

theorem freeEntry_only (i : Idx) (s : State) : ContractsOnly s (freeEntry i s) :=
  (setEntry_only i _ s).trans <| (leaveLists_only i _).trans <| (dropNotices_only _ i _).trans <| tellNeed_only ..

theorem retireWith_only (c : Option Cause) (i : Idx) (s : State) : ContractsOnly s (retireWith c i s) :=
  (setEntry_only i _ s).trans <| (leaveLists_only i _).trans <| (queueNotice_only ..).trans <| tellNeed_only ..

theorem retireEntry_only (c : Cause) (i : Idx) (s : State) : ContractsOnly s (retireEntry c i s) := retireWith_only ..

theorem retireAll_only (c : Cause) (l : List Idx) (s : State) : ContractsOnly s (retireAll c l s) :=
  .foldl _ (fun s i => retireEntry_only c i s) l s

theorem retireSlot_only (c : Cause) (n : Slot) (s : State) : ContractsOnly s (retireSlot c n s) := retireAll_only ..

theorem offerEntry_only (i : Idx) (level : Nat) (s : State) : ContractsOnly s (offerEntry i level s) :=
  (setEntry_only i _ s).trans <| (leaveLists_only i _).trans <| setAdmission_only ..

theorem returnToWaiting_only (i : Idx) (s : State) : ContractsOnly s (returnToWaiting i s) := by constructor <;> rfl

theorem recallEntry_only (i : Idx) (s : State) : ContractsOnly s (recallEntry i s) := by
  refine (returnToWaiting_only i s).trans (.trans ?_ (tellNeed_only (s.entry i) _))
  split
  · exact removeNotice_only ..
  · exact queueNotice_only ..

theorem reduceEntry_only (i : Idx) (target : Nat) (s : State) : ContractsOnly s (reduceEntry i target s) :=
  (setEntry_only i _ s).trans (queueNotice_only ..)

theorem revokeEntry_only (c : Cause) (i : Idx) (s : State) : ContractsOnly s (revokeEntry c i s) :=
  (setEntry_only i _ s).trans (queueNotice_only ..)

/-! ## The Budget Account's procedures -/

theorem restoreEntry_only (s : State) (i : Idx) : ContractsOnly s (restoreEntry s i) := by
  unfold restoreEntry
  split
  · exact .refl s
  · dsimp only
    split <;> first | exact .refl s | exact setEntry_only .. | exact (setEntry_only i _ s).trans (queueNotice_only ..)

theorem restoration_only (s : State) : ContractsOnly s (restoration s) := .foldl _ restoreEntry_only _ s

theorem admitFrom_only (l : List Idx) (s : State) : ContractsOnly s (admitFrom l s) := by
  induction l generalizing s with
  | nil => exact .refl s
  | cons i l ih =>
    rw [admitFrom]
    split
    · exact .refl s
    · exact ((offerEntry_only ..).trans (queueNotice_only ..)).trans (ih _)

theorem spendHeadroom_only (s : State) : ContractsOnly s (spendHeadroom s) :=
  (restoration_only s).trans (admitFrom_only ..)

theorem rebalance_only (s : State) : ContractsOnly s (rebalance s) := by
  unfold rebalance
  split
  · exact spendHeadroom_only s
  · exact .refl s

theorem whileExcess_only (act : Idx → State → State) (h : ∀ i s, ContractsOnly s (act i s)) (l : List Idx) (s : State) :
    ContractsOnly s (whileExcess act l s) := by
  refine .foldl _ (fun t i => ?_) l s
  split
  · exact .refl t
  · exact h i t

theorem shedRecall_only (s : State) : ContractsOnly s (shedRecall s) := whileExcess_only _ recallEntry_only _ s

theorem shedReduceOne_only (i : Idx) (s : State) : ContractsOnly s (shedReduceOne i s) := reduceEntry_only ..

theorem shedReduce_only (c : Class) (s : State) : ContractsOnly s (shedReduce c s) :=
  whileExcess_only _ shedReduceOne_only _ s

theorem shedRevoke_only (c : Class) (s : State) : ContractsOnly s (shedRevoke c s) :=
  whileExcess_only _ (revokeEntry_only .shed) _ s

theorem shedPlan_only (s : State) : ContractsOnly s (shedPlan s) :=
  (shedRecall_only s).trans <| .foldl _ (fun t c => (shedReduce_only c t).trans (shedRevoke_only c _)) _ _

/-- The recomputation changes C and then contracts only. -/
theorem recompute_only (c : Nat) (s : State) : ContractsOnly { s with capacity := c } (recompute c s) := by
  unfold recompute
  refine .trans ?_ (rebalance_only _)
  split
  · exact shedPlan_only _
  · exact .refl _

/-! ## Flags -/

theorem raise_only (e : Event) (s : State) : DecisionsOnly s (raise e s) := by constructor <;> rfl

theorem judgeDeficit_only (s : State) : DecisionsOnly s (judgeDeficit s) := by
  unfold judgeDeficit
  split <;> split <;> first | exact .refl s | (constructor <;> rfl)

theorem judgeDeficit_rebalance_only (s : State) : DecisionsOnly s (judgeDeficit (rebalance s)) :=
  (rebalance_only s).decisions.trans (judgeDeficit_only _)

/-- Every field but the deficit flag and the event flags stays when the deficit is judged. -/
theorem judgeDeficit_eq (s : State) :
    judgeDeficit s = { s with deficit := (judgeDeficit s).deficit, events := (judgeDeficit s).events } := by
  unfold judgeDeficit
  split <;> split <;> rfl

/-! ## Slots -/

theorem freeAll_only (l : List Idx) (s : State) : ContractsOnly s (freeAll l s) :=
  .foldl _ (fun t i => freeEntry_only i t) l s

theorem cutRec_only (n : Slot) (s : State) : ContractsOnly s (cutRec n s) := by
  unfold cutRec
  split <;> first | exact unpowerSlot_only .. | exact .refl s

theorem emptyOfModule_only (n : Slot) (s : State) : ContractsOnly s (emptyOfModule n s) := by
  unfold emptyOfModule
  dsimp only
  split
  · exact setSlot_only ..
  · exact (setSlot_only n _ s).trans (leaveInrush_only ..)

theorem energize_only (n : Slot) (s : State) : ContractsOnly s (energize n s) := .foldl _ (fun t i => setEntry_only i _ t) _ s

theorem suspendAll_only (s : State) : ContractsOnly s (suspendAll s) :=
  .trans (.foldl _ (fun t n => setSlot_only n (suspendedRec (t.slotRec n)) t) allSlots s) (setInrush_only _ _)

theorem restartAll_only (s : State) : ContractsOnly s (restartAll s) :=
  .trans (.foldl _ (fun t n => setSlot_only n (restartedRec s n (t.slotRec n)) t) allSlots s) (setInrush_only _ _)

theorem purgeSlots_only (s : State) : ContractsOnly s (purgeSlots s) :=
  .trans (.foldl _ (fun t n => setSlot_only n (purgedRec (t.slotRec n)) t) allSlots s) (setInrush_only _ _)

theorem cutSlot_only (n : Slot) (s : State) : DecisionsOnly s (cutSlot n s) :=
  (retireSlot_only .enforced n s).decisions.trans <| (cutRec_only n _).decisions.trans <| (raise_only .slotCut _).trans <|
    judgeDeficit_rebalance_only _

end Sys2Proof.Machine
end

