-- ==== Sys2Proof/Laws/Entries.lean ====
section
/-! SUPPORT. What each shared operation does to the entries, the two lists and the outboxes: one equation per operation and
reader. -/

namespace Sys2Proof.Machine

/-! ## Judging a slot's need touches the slots alone -/

@[simp] theorem judgeNeed_table (n : Slot) (s : State) : (judgeNeed n s).table = s.table := by
  unfold judgeNeed; split <;> (try split) <;> rfl
@[simp] theorem judgeNeed_waitQueue (n : Slot) (s : State) : (judgeNeed n s).waitQueue = s.waitQueue := by
  unfold judgeNeed; split <;> (try split) <;> rfl
@[simp] theorem judgeNeed_admission (n : Slot) (s : State) : (judgeNeed n s).admission = s.admission := by
  unfold judgeNeed; split <;> (try split) <;> rfl
@[simp] theorem judgeNeed_outboxes (n : Slot) (s : State) : (judgeNeed n s).outboxes = s.outboxes := by
  unfold judgeNeed; split <;> (try split) <;> rfl
@[simp] theorem judgeNeed_nextItem (n : Slot) (s : State) : (judgeNeed n s).nextItem = s.nextItem := by
  unfold judgeNeed; split <;> (try split) <;> rfl
@[simp] theorem judgeNeed_entry (n : Slot) (s : State) (j : Idx) : (judgeNeed n s).entry j = s.entry j :=
  entry_of_table (judgeNeed_table n s) j
@[simp] theorem judgeNeed_outbox (n : Slot) (s : State) (m : Slot) : (judgeNeed n s).outbox m = s.outbox m :=
  outbox_of_outboxes (judgeNeed_outboxes n s) m

@[simp] theorem tellNeed_table (e : Entry) (s : State) : (tellNeed e s).table = s.table := by
  unfold tellNeed; split <;> simp
@[simp] theorem tellNeed_waitQueue (e : Entry) (s : State) : (tellNeed e s).waitQueue = s.waitQueue := by
  unfold tellNeed; split <;> simp
@[simp] theorem tellNeed_admission (e : Entry) (s : State) : (tellNeed e s).admission = s.admission := by
  unfold tellNeed; split <;> simp
@[simp] theorem tellNeed_outboxes (e : Entry) (s : State) : (tellNeed e s).outboxes = s.outboxes := by
  unfold tellNeed; split <;> simp
@[simp] theorem tellNeed_nextItem (e : Entry) (s : State) : (tellNeed e s).nextItem = s.nextItem := by
  unfold tellNeed; split <;> simp
@[simp] theorem tellNeed_entry (e : Entry) (s : State) (j : Idx) : (tellNeed e s).entry j = s.entry j :=
  entry_of_table (tellNeed_table e s) j
@[simp] theorem tellNeed_outbox (e : Entry) (s : State) (m : Slot) : (tellNeed e s).outbox m = s.outbox m :=
  outbox_of_outboxes (tellNeed_outboxes e s) m

/-! ## Entries see through the operations on lists, outboxes and slots -/

@[simp] theorem leaveLists_entry (i j : Idx) (s : State) : (leaveLists i s).entry j = s.entry j := rfl
@[simp] theorem leaveLists_outbox (i : Idx) (n : Slot) (s : State) : (leaveLists i s).outbox n = s.outbox n := rfl
@[simp] theorem leaveLists_slotRec (i : Idx) (n : Slot) (s : State) : (leaveLists i s).slotRec n = s.slotRec n := rfl
@[simp] theorem keepNotices_entry (n : Slot) (p : Notice → Bool) (s : State) (j : Idx) :
    (keepNotices n p s).entry j = s.entry j := rfl
@[simp] theorem keepNotices_slotRec (n : Slot) (p : Notice → Bool) (s : State) (m : Slot) :
    (keepNotices n p s).slotRec m = s.slotRec m := rfl
@[simp] theorem dropNotices_entry (n : Slot) (i j : Idx) (s : State) : (dropNotices n i s).entry j = s.entry j := rfl
@[simp] theorem dropNotices_slotRec (n m : Slot) (i : Idx) (s : State) :
    (dropNotices n i s).slotRec m = s.slotRec m := rfl
@[simp] theorem removeNotice_entry (n : Slot) (i j : Idx) (k : NoticeKind) (s : State) :
    (removeNotice n i k s).entry j = s.entry j := rfl
@[simp] theorem removeNotice_slotRec (n m : Slot) (i : Idx) (k : NoticeKind) (s : State) :
    (removeNotice n i k s).slotRec m = s.slotRec m := rfl
@[simp] theorem queueNotice_entry (k : NoticeKind) (i j : Idx) (level : Nat) (s : State) :
    (queueNotice k i level s).entry j = s.entry j := rfl
@[simp] theorem queueNotice_slotRec (k : NoticeKind) (i : Idx) (n : Slot) (level : Nat) (s : State) :
    (queueNotice k i level s).slotRec n = s.slotRec n := rfl
@[simp] theorem placeReply_entry (n : Slot) (kind : Byte) (st : Status) (named : Option Idx) (gen : BitVec 8)
    (state : EntryState) (held extra : Nat) (s : State) (j : Idx) :
    (placeReply n kind st named gen state held extra s).entry j = s.entry j := rfl
@[simp] theorem placeReply_slotRec (n : Slot) (kind : Byte) (st : Status) (named : Option Idx) (gen : BitVec 8)
    (state : EntryState) (held extra : Nat) (s : State) (m : Slot) :
    (placeReply n kind st named gen state held extra s).slotRec m = s.slotRec m := rfl
@[simp] theorem leaveInrush_entry (n : Slot) (s : State) (j : Idx) : (leaveInrush n s).entry j = s.entry j := rfl
@[simp] theorem leaveInrush_outbox (n m : Slot) (s : State) : (leaveInrush n s).outbox m = s.outbox m := rfl
@[simp] theorem leaveInrush_slotRec (n m : Slot) (s : State) : (leaveInrush n s).slotRec m = s.slotRec m := rfl
@[simp] theorem unpowerSlot_entry (n : Slot) (st : SlotState) (s : State) (j : Idx) :
    (unpowerSlot n st s).entry j = s.entry j := rfl
@[simp] theorem unpowerSlot_outbox (n m : Slot) (st : SlotState) (s : State) :
    (unpowerSlot n st s).outbox m = s.outbox m := rfl
@[simp] theorem raise_entry (e : Event) (s : State) (j : Idx) : (raise e s).entry j = s.entry j := rfl
@[simp] theorem raise_outbox (e : Event) (s : State) (n : Slot) : (raise e s).outbox n = s.outbox n := rfl
@[simp] theorem raise_slotRec (e : Event) (s : State) (n : Slot) : (raise e s).slotRec n = s.slotRec n := rfl
@[simp] theorem judgeDeficit_table (s : State) : (judgeDeficit s).table = s.table := by rw [judgeDeficit_eq]
@[simp] theorem judgeDeficit_waitQueue (s : State) : (judgeDeficit s).waitQueue = s.waitQueue := by rw [judgeDeficit_eq]
@[simp] theorem judgeDeficit_admission (s : State) : (judgeDeficit s).admission = s.admission := by rw [judgeDeficit_eq]
@[simp] theorem judgeDeficit_outboxes (s : State) : (judgeDeficit s).outboxes = s.outboxes := by rw [judgeDeficit_eq]
@[simp] theorem judgeDeficit_nextItem (s : State) : (judgeDeficit s).nextItem = s.nextItem := by rw [judgeDeficit_eq]
@[simp] theorem judgeDeficit_slots (s : State) : (judgeDeficit s).slots = s.slots := by rw [judgeDeficit_eq]
@[simp] theorem judgeDeficit_inrush (s : State) : (judgeDeficit s).inrush = s.inrush := by rw [judgeDeficit_eq]
@[simp] theorem judgeDeficit_entry (s : State) (j : Idx) : (judgeDeficit s).entry j = s.entry j :=
  entry_of_table (judgeDeficit_table s) j
@[simp] theorem judgeDeficit_outbox (s : State) (n : Slot) : (judgeDeficit s).outbox n = s.outbox n :=
  outbox_of_outboxes (judgeDeficit_outboxes s) n
@[simp] theorem judgeDeficit_slotRec (s : State) (n : Slot) : (judgeDeficit s).slotRec n = s.slotRec n :=
  slotRec_of_slots (judgeDeficit_slots s) n

/-! ## Outboxes -/

theorem keepNotices_outbox (n : Slot) (p : Notice → Bool) (s : State) (m : Slot) :
    (keepNotices n p s).outbox m =
      if m = n then { s.outbox n with notices := (s.outbox n).notices.filter p } else s.outbox m :=
  outbox_setOutbox ..

theorem queueNotice_outbox (k : NoticeKind) (i : Idx) (level : Nat) (s : State) (m : Slot) :
    (queueNotice k i level s).outbox m =
      if m = (s.entry i).slot then
        { s.outbox m with
          notices := (s.outbox m).notices.filter (fun y => y.index != i)
            ++ [{ id := s.nextItem, kind := k, index := i, gen := (s.entry i).gen, tag := (s.entry i).tag,
                  level := level }] }
      else s.outbox m := by
  have h : (queueNotice k i level s).outbox m = (s.setOutbox (s.entry i).slot
      { s.outbox (s.entry i).slot with
        notices := (s.outbox (s.entry i).slot).notices.filter (fun y => y.index != i)
          ++ [{ id := s.nextItem, kind := k, index := i, gen := (s.entry i).gen, tag := (s.entry i).tag,
                level := level }] }).outbox m := rfl
  rw [h, outbox_setOutbox]
  split
  · next hm => subst hm; rfl
  · rfl

/-! ## The transitions: entries -/

theorem freeEntry_entry (i j : Idx) (s : State) :
    (freeEntry i s).entry j = if j = i then { blankEntry with gen := (s.entry i).gen + 1 } else s.entry j := by
  simp only [freeEntry, tellNeed_entry, dropNotices_entry, leaveLists_entry, entry_setEntry]

theorem retireWith_entry (c : Option Cause) (i j : Idx) (s : State) :
    (retireWith c i s).entry j =
      if j = i then
        { s.entry i with state := .retired, cause := c, held := 0, target := none, period := none,
                         deadline := some (expiryAfter s (duration s .deliv)) }
      else s.entry j := by
  simp only [retireWith, tellNeed_entry, queueNotice_entry, leaveLists_entry, entry_setEntry]

theorem offerEntry_entry (i j : Idx) (level : Nat) (s : State) :
    (offerEntry i level s).entry j =
      if j = i then { s.entry i with state := .offered, held := level,
                                     deadline := some (expiryAfter s (duration s .offerw)) }
      else s.entry j := by
  have h : (offerEntry i level s).entry j = (s.setEntry i { s.entry i with
    state := .offered, held := level, deadline := some (expiryAfter s (duration s .offerw)) }).entry j := rfl
  rw [h, entry_setEntry]

theorem returnToWaiting_entry (i j : Idx) (s : State) :
    (returnToWaiting i s).entry j =
      if j = i then { s.entry i with state := .waiting, held := 0, period := none, deadline := none }
      else s.entry j := by
  have h : (returnToWaiting i s).entry j = (s.setEntry i { s.entry i with
    state := .waiting, held := 0, period := none, deadline := none }).entry j := rfl
  rw [h, entry_setEntry]

theorem recallEntry_entry (i j : Idx) (s : State) :
    (recallEntry i s).entry j =
      if j = i then { s.entry i with state := .waiting, held := 0, period := none, deadline := none }
      else s.entry j := by
  simp only [recallEntry, tellNeed_entry]
  split <;> simp only [removeNotice_entry, queueNotice_entry, returnToWaiting_entry]

theorem reduceEntry_entry (i j : Idx) (target : Nat) (s : State) :
    (reduceEntry i target s).entry j =
      if j = i then { s.entry i with state := .reducing, target := some target,
                                     deadline := some (expiryAfter s (duration s .redgrace)) }
      else s.entry j := by
  simp only [reduceEntry, queueNotice_entry, entry_setEntry]

theorem revokeEntry_entry (c : Cause) (i j : Idx) (s : State) :
    (revokeEntry c i s).entry j =
      if j = i then { s.entry i with state := .revoking, cause := some c, target := none, period := none,
                                     deadline := some (expiryAfter s (duration s .revgrace)) }
      else s.entry j := by
  simp only [revokeEntry, queueNotice_entry, entry_setEntry]

/-! ## The transitions: lists -/

theorem freeEntry_waitQueue (i : Idx) (s : State) : (freeEntry i s).waitQueue = s.waitQueue.filter (· != i) := by
  simp only [freeEntry, tellNeed_waitQueue]; rfl
theorem freeEntry_admission (i : Idx) (s : State) : (freeEntry i s).admission = s.admission.filter (· != i) := by
  simp only [freeEntry, tellNeed_admission]; rfl
theorem retireWith_waitQueue (c : Option Cause) (i : Idx) (s : State) :
    (retireWith c i s).waitQueue = s.waitQueue.filter (· != i) := by
  simp only [retireWith, tellNeed_waitQueue]; rfl
theorem retireWith_admission (c : Option Cause) (i : Idx) (s : State) :
    (retireWith c i s).admission = s.admission.filter (· != i) := by
  simp only [retireWith, tellNeed_admission]; rfl
theorem offerEntry_waitQueue (i : Idx) (level : Nat) (s : State) :
    (offerEntry i level s).waitQueue = s.waitQueue.filter (· != i) := rfl
theorem offerEntry_admission (i : Idx) (level : Nat) (s : State) :
    (offerEntry i level s).admission = s.admission.filter (· != i) ++ [i] := rfl
theorem recallEntry_admission (i : Idx) (s : State) : (recallEntry i s).admission = s.admission.filter (· != i) := by
  simp only [recallEntry, tellNeed_admission]; split <;> rfl
theorem recallEntry_waitQueue (i : Idx) (s : State) :
    (recallEntry i s).waitQueue = (returnToWaiting i s).waitQueue := by
  simp only [recallEntry, tellNeed_waitQueue]; split <;> rfl
theorem reduceEntry_waitQueue (i : Idx) (target : Nat) (s : State) : (reduceEntry i target s).waitQueue = s.waitQueue := rfl
theorem reduceEntry_admission (i : Idx) (target : Nat) (s : State) : (reduceEntry i target s).admission = s.admission := rfl
theorem revokeEntry_waitQueue (c : Cause) (i : Idx) (s : State) : (revokeEntry c i s).waitQueue = s.waitQueue := rfl
theorem revokeEntry_admission (c : Cause) (i : Idx) (s : State) : (revokeEntry c i s).admission = s.admission := rfl

/-! ## The transitions: outboxes -/

theorem freeEntry_outbox (i : Idx) (s : State) (m : Slot) :
    (freeEntry i s).outbox m =
      if m = (s.entry i).slot then
        { s.outbox m with notices := (s.outbox m).notices.filter (fun x => x.index != i) }
      else s.outbox m := by
  simp only [freeEntry, tellNeed_outbox, dropNotices, keepNotices_outbox, leaveLists_outbox, outbox_setEntry]
  split
  · next h => subst h; rfl
  · rfl

theorem freeEntry_nextItem (i : Idx) (s : State) : (freeEntry i s).nextItem = s.nextItem := by
  simp only [freeEntry, tellNeed_nextItem]; rfl

theorem retireWith_outbox (c : Option Cause) (i : Idx) (s : State) (m : Slot) :
    (retireWith c i s).outbox m =
      if m = (s.entry i).slot then
        { s.outbox m with
          notices := (s.outbox m).notices.filter (fun y => y.index != i)
            ++ [{ id := s.nextItem, kind := .closed, index := i, gen := (s.entry i).gen, tag := (s.entry i).tag,
                  level := 0 }] }
      else s.outbox m := by
  simp only [retireWith, tellNeed_outbox, queueNotice_outbox, leaveLists_outbox, leaveLists_entry, outbox_setEntry,
    entry_setEntry_same]
  rfl

theorem retireWith_nextItem (c : Option Cause) (i : Idx) (s : State) :
    (retireWith c i s).nextItem = s.nextItem + 1 := by
  simp only [retireWith, tellNeed_nextItem]; rfl

/-! ## The retirement of several entries -/

theorem retireAll_nil (c : Cause) (s : State) : retireAll c [] s = s := rfl

theorem retireAll_cons (c : Cause) (i : Idx) (l : List Idx) (s : State) :
    retireAll c (i :: l) s = retireAll c l (retireEntry c i s) := rfl

/-- Each entry of the list is RETIRED with the cause, every other is as it was. -/
theorem retireAll_entry (c : Cause) (l : List Idx) (hl : l.Nodup) (s : State) (j : Idx) :
    (retireAll c l s).entry j =
      if j ∈ l then
        { s.entry j with state := .retired, cause := some c, held := 0, target := none, period := none,
                         deadline := some (expiryAfter s (duration s .deliv)) }
      else s.entry j := by
  induction l generalizing s with
  | nil => simp [retireAll_nil]
  | cons i l ih =>
    obtain ⟨hi, hl⟩ := List.nodup_cons.mp hl
    have k := retireEntry_only c i s
    have hd : expiryAfter (retireEntry c i s) (duration (retireEntry c i s) .deliv)
        = expiryAfter s (duration s .deliv) := by
      simp only [expiryAfter, firstTick, duration, activeItem, k.now, k.active]
    rw [retireAll_cons, ih hl, hd]
    by_cases hj : j = i
    · subst hj; simp [hi, retireEntry, retireWith_entry]
    · simp [hj, retireEntry, retireWith_entry]

theorem retireAll_waitQueue (c : Cause) (l : List Idx) (s : State) :
    (retireAll c l s).waitQueue = s.waitQueue.filter (fun j => !l.contains j) := by
  induction l generalizing s with
  | nil => simp [retireAll_nil]
  | cons i l ih =>
    rw [retireAll_cons, ih, retireEntry, retireWith_waitQueue, List.filter_filter]
    congr 1; funext j
    by_cases h : j = i <;> simp [h]

theorem retireAll_admission (c : Cause) (l : List Idx) (s : State) :
    (retireAll c l s).admission = s.admission.filter (fun j => !l.contains j) := by
  induction l generalizing s with
  | nil => simp [retireAll_nil]
  | cons i l ih =>
    rw [retireAll_cons, ih, retireEntry, retireWith_admission, List.filter_filter]
    congr 1; funext j
    by_cases h : j = i <;> simp [h]

/-! ## The freeing of several entries -/

theorem freeAll_cons (i : Idx) (l : List Idx) (s : State) : freeAll (i :: l) s = freeAll l (freeEntry i s) := rfl

theorem freeAll_entry (l : List Idx) (hl : l.Nodup) (s : State) (j : Idx) :
    (freeAll l s).entry j = if j ∈ l then { blankEntry with gen := (s.entry j).gen + 1 } else s.entry j := by
  induction l generalizing s with
  | nil => simp [freeAll]
  | cons i l ih =>
    obtain ⟨hi, hl⟩ := List.nodup_cons.mp hl
    rw [freeAll_cons, ih hl]
    by_cases hj : j = i
    · subst hj; simp [hi, freeEntry_entry]
    · simp [hj, freeEntry_entry]

theorem freeAll_waitQueue (l : List Idx) (s : State) :
    (freeAll l s).waitQueue = s.waitQueue.filter (fun j => !l.contains j) := by
  induction l generalizing s with
  | nil => simp [freeAll]
  | cons i l ih =>
    rw [freeAll_cons, ih, freeEntry_waitQueue, List.filter_filter]
    congr 1; funext j
    by_cases h : j = i <;> simp [h]

theorem freeAll_admission (l : List Idx) (s : State) :
    (freeAll l s).admission = s.admission.filter (fun j => !l.contains j) := by
  induction l generalizing s with
  | nil => simp [freeAll]
  | cons i l ih =>
    rw [freeAll_cons, ih, freeEntry_admission, List.filter_filter]
    congr 1; funext j
    by_cases h : j = i <;> simp [h]

theorem nodup_entriesWhere (s : State) (p : Entry → Bool) : (entriesWhere s p).Nodup :=
  List.Nodup.filter _ nodup_allIdx

end Sys2Proof.Machine
end

