-- ==== Sys2Proof/Laws/Requests.lean ====
section
/-! SUPPORT. Which check answers a message and what a message can touch: the lemmas a proof about a request cites instead of
unfolding the validation order. -/

namespace Sys2Proof.Machine

/-! ## The validation order -/

theorem Passes.refusalOf {s : State} {k : Kind} {n : Slot} {msg : List Byte} (h : Passes s k n msg) :
    refusalOf s k n msg = none := by
  unfold Machine.refusalOf
  simp only [h.check, h.length, h.fields, h.seated, Bool.not_true, Bool.false_eq_true, if_false, ne_eq, not_true_eq_false]
  split
  · next hk =>
    obtain ⟨h1, h2⟩ := h.slot hk
    unfold slotRefusal
    split <;> simp_all
  · rfl

theorem Passes.length_le {s : State} {k : Kind} {n : Slot} {b : Byte} {rest : List Byte} (h : Passes s k n (b :: rest)) :
    rest.length ≤ 15 := by
  have := h.length
  cases k <;> simp [kindLength] at this <;> omega

theorem NamesEntry.handleEntry {s : State} {n : Slot} {msg : List Byte} {i : Idx} (h : NamesEntry s n msg i) :
    handleEntry s (byteAt msg 1).toNat (byteAt msg 2).toNat = some i := by
  have hi : (⟨(byteAt msg 1).toNat, h.index ▸ i.isLt⟩ : Idx) = i := Fin.ext h.index
  unfold Machine.handleEntry
  rw [dif_pos (h.index ▸ i.isLt)]
  simp only [hi, h.generation]
  simp [h.alive]

theorem NamesEntry.handleCheck {s : State} {n : Slot} {msg : List Byte} {i : Idx} (h : NamesEntry s n msg i) :
    handleCheck s n msg = .ok i := by
  simp [Machine.handleCheck, h.handleEntry, h.slot]

/-- A message that passes the order and names an entry reaches its kind's rules (R120). -/
theorem onHandle_reaches {s : State} {k : Kind} {n : Slot} {msg : List Byte} {i : Idx} (act : Idx → State → State)
    (hp : Passes s k n msg) (hn : NamesEntry s n msg i) : onHandle k n msg act s = act i s := by
  simp [onHandle, hp.refusalOf, hn.handleCheck]

/-! ## A message touches contracts and flags alone -/

theorem refuse_only (n : Slot) (msg : List Byte) (st : Status) (s : State) : DecisionsOnly s (refuse n msg st s) :=
  (placeReply_only ..).decisions

theorem replyEntry_only (n : Slot) (msg : List Byte) (st : Status) (i : Idx) (extra : Nat) (s : State) :
    DecisionsOnly s (replyEntry n msg st i extra s) := (placeReply_only ..).decisions

theorem wrongState_only (n : Slot) (msg : List Byte) (i : Idx) (s : State) : DecisionsOnly s (wrongState n msg i s) :=
  replyEntry_only ..

theorem onHandle_only (k : Kind) (n : Slot) (msg : List Byte) (act : Idx → State → State)
    (h : ∀ i s, DecisionsOnly s (act i s)) (s : State) : DecisionsOnly s (onHandle k n msg act s) := by
  unfold onHandle
  split
  · exact refuse_only ..
  · split
    · exact refuse_only ..
    · exact h _ s

theorem claimWaiting_only (i : Idx) (n : Slot) (f : ClaimFields) (s : State) : ContractsOnly s (claimWaiting i n f s) := by
  constructor <;> rfl

theorem claimOffered_only (i : Idx) (n : Slot) (f : ClaimFields) (s : State) : ContractsOnly s (claimOffered i n f s) :=
  (setEntry_only i _ s).trans (offerEntry_only ..)

theorem handleClaim_only (n : Slot) (msg : List Byte) (s : State) : DecisionsOnly s (handleClaim n msg s) := by
  unfold handleClaim
  split
  · exact refuse_only ..
  · unfold takeClaim
    dsimp only
    split
    · exact refuse_only ..
    · refine .trans ?_ (judgeDeficit_only _)
      split
      · exact (claimOffered_only ..).decisions.trans (replyEntry_only ..)
      · exact (claimWaiting_only ..).decisions.trans (replyEntry_only ..)

theorem gainNeed_only (n : Slot) (c : Class) (s : State) : ContractsOnly s (gainNeed n c s) := by
  unfold gainNeed
  split <;> first | exact .refl s | exact setSlot_only .. | (constructor <;> rfl)

theorem confirmEntry_only (i : Idx) (s : State) : ContractsOnly s (confirmEntry i s) := by
  unfold confirmEntry
  dsimp only
  split <;> first | exact setEntry_only .. | exact (setEntry_only i _ s).trans (gainNeed_only ..)

theorem takeConfirm_only (n : Slot) (msg : List Byte) (i : Idx) (s : State) : DecisionsOnly s (takeConfirm n msg i s) := by
  unfold takeConfirm
  split
  · exact ((removeNotice_only n i .offer s).trans (confirmEntry_only i _)).decisions.trans (replyEntry_only ..)
  all_goals exact wrongState_only ..

theorem adjustPowered_only (n : Slot) (msg : List Byte) (i : Idx) (s : State) :
    DecisionsOnly s (adjustPowered n msg i s) := by
  unfold adjustPowered
  dsimp only
  split
  · exact replyEntry_only ..
  · next h _ =>
    let e := adjustedEntry (s.entry i) (adjustRequested msg) (adjustFloor msg) h
    refine ((setEntry_only i e s).trans (removeNotice_only n i .restore _)).decisions.trans ?_
    split
    · exact (replyEntry_only ..).trans (judgeDeficit_rebalance_only _)
    · exact (replyEntry_only ..).trans (judgeDeficit_only _)

theorem takeAdjust_only (n : Slot) (msg : List Byte) (i : Idx) (s : State) : DecisionsOnly s (takeAdjust n msg i s) := by
  unfold takeAdjust
  split
  case h_1 =>
    exact (setEntry_only i _ s).decisions.trans ((replyEntry_only ..).trans (judgeDeficit_rebalance_only _))
  case h_2 | h_3 | h_4 => exact adjustPowered_only ..
  all_goals exact wrongState_only ..

theorem takeComply_only (n : Slot) (msg : List Byte) (i : Idx) (s : State) : DecisionsOnly s (takeComply n msg i s) := by
  unfold takeComply
  dsimp only
  split
  · split
    · exact replyEntry_only ..
    · exact ((setEntry_only i _ s).trans (removeNotice_only n i .reduce _)).decisions.trans
        ((replyEntry_only ..).trans (judgeDeficit_rebalance_only _))
  all_goals exact wrongState_only ..

theorem takeRenew_only (n : Slot) (msg : List Byte) (i : Idx) (s : State) : DecisionsOnly s (takeRenew n msg i s) := by
  unfold takeRenew
  dsimp only
  split
  · exact ((setEntry_only i _ s).trans (removeNotice_only n i .leaseWarn _)).decisions.trans (replyEntry_only ..)
  · exact wrongState_only ..

theorem takeRelease_only (n : Slot) (msg : List Byte) (i : Idx) (s : State) : DecisionsOnly s (takeRelease n msg i s) :=
  ((freeEntry_only i s).trans (placeReply_only ..)).decisions.trans (judgeDeficit_rebalance_only _)

theorem handleQuery_only (n : Slot) (msg : List Byte) (s : State) : DecisionsOnly s (handleQuery n msg s) := by
  unfold handleQuery
  split
  · exact refuse_only ..
  · unfold takeQuery
    split
    · exact refuse_only ..
    · exact replyEntry_only ..

theorem handleKind_only (k : Kind) (n : Slot) (msg : List Byte) (s : State) : DecisionsOnly s (handleKind k n msg s) := by
  cases k
  · exact handleClaim_only ..
  · exact onHandle_only _ n msg _ (takeConfirm_only n msg) s
  · exact onHandle_only _ n msg _ (takeAdjust_only n msg) s
  · exact onHandle_only _ n msg _ (takeComply_only n msg) s
  · exact onHandle_only _ n msg _ (takeRenew_only n msg) s
  · exact onHandle_only _ n msg _ (takeRelease_only n msg) s
  · exact handleQuery_only ..

theorem handleMessage_only (n : Slot) (msg : List Byte) (s : State) : DecisionsOnly s (handleMessage n msg s) := by
  unfold handleMessage
  split
  · exact refuse_only ..
  · split
    · exact refuse_only ..
    · exact handleKind_only ..

/-- A message whose first byte is a kind is taken by the rules of that kind, its check included (R121). -/
theorem handleMessage_kind {k : Kind} {n : Slot} {msg : List Byte} (h : kindOf (byteAt msg 0) = some k) (s : State) :
    handleMessage n msg s = handleKind k n msg s := by
  by_cases hc : checkOk s.straps n msg = true
  · simp [handleMessage, hc, h]
  · have hr : refusalOf s k n msg = some .checkError := by simp [refusalOf, hc]
    have hh : handleMessage n msg s = refuse n msg .checkError s := by simp [handleMessage, hc]
    rw [hh]
    cases k <;> simp [handleKind, handleClaim, handleConfirm, handleAdjust, handleComply, handleRenew, handleRelease,
      handleQuery, onHandle, hr]

/-! ## Tags and free entries -/

theorem ofSlot_iff (n : Slot) (e : Entry) : ofSlot n e = true ↔ e.state ≠ .free ∧ e.slot = n := by
  simp [ofSlot]

theorem findTag_none_iff (s : State) (n : Slot) (t : Tag) : findTag s n t = none ↔ ¬ HoldsTag s n t := by
  simp only [findTag, List.head?_eq_none_iff, List.eq_nil_iff_forall_not_mem, mem_entriesWhere, HoldsTag, Bool.and_eq_true,
    ofSlot_iff, beq_iff_eq, not_exists]
  exact forall_congr' fun i => by tauto

theorem findTag_some {s : State} {n : Slot} {t : Tag} {i : Idx} (hl : SlotLimits s) (h1 : (s.entry i).state ≠ .free)
    (h2 : (s.entry i).slot = n) (h3 : (s.entry i).tag = t) : findTag s n t = some i := by
  cases h : findTag s n t with
  | none => exact absurd ⟨i, h1, h2, h3⟩ ((findTag_none_iff s n t).mp h)
  | some j =>
    have hj := List.mem_of_mem_head? (Option.mem_def.mpr h)
    simp only [mem_entriesWhere, Bool.and_eq_true, ofSlot_iff, beq_iff_eq] at hj
    rw [hl.2 j i hj.1.1 h1 (hj.1.2.trans h2.symm) (hj.2.trans h3.symm)]

theorem lowestFree_none_iff (s : State) : lowestFree s = none ↔ ∀ i : Idx, (s.entry i).state ≠ .free := by
  simp [lowestFree, List.head?_eq_none_iff, List.eq_nil_iff_forall_not_mem, mem_entriesWhere]

theorem pairwise_allIdx : allIdx.Pairwise (· < ·) := List.pairwise_lt_finRange 32

theorem lowestFree_eq {s : State} {i : Idx} (h : LowestFree s i) : lowestFree s = some i := by
  have hm : i ∈ entriesWhere s fun e => e.state == .free := by simp [mem_entriesWhere, h.1]
  have hs : (entriesWhere s fun e => e.state == .free).Pairwise (· < ·) := List.Pairwise.filter _ pairwise_allIdx
  unfold lowestFree
  cases hc : entriesWhere s fun e => e.state == .free with
  | nil => rw [hc] at hm; simp at hm
  | cons j l =>
    rw [hc] at hm hs
    rcases List.mem_cons.mp hm with rfl | hi
    · rfl
    · have hj : j ∈ entriesWhere s fun e => e.state == .free := by rw [hc]; simp
      simp only [mem_entriesWhere, beq_iff_eq] at hj
      exact absurd hj (h.2 j (List.rel_of_pairwise_cons hs hi))

/-- The admission test is the conditions of R27. -/
theorem admissible_iff (s : State) (c : Sys2Proof.Class) (floor : Nat) : admissible s c floor = true ↔ WouldOffer s c floor := by
  simp only [admissible, WouldOffer, Bool.and_eq_true, beq_iff_eq, decide_eq_true_eq, List.isEmpty_iff,
    List.eq_nil_iff_forall_not_mem, mem_entriesWhere, not_and, not_le, and_assoc]

end Sys2Proof.Machine
end

