-- ==== Sys2Proof/Laws/Slots.lean ====
section
/-! SUPPORT. What the shared operations do to the slots and the Inrush Queue (R150): the judging of a slot's need, and its use
by the transitions of an entry. -/

namespace Sys2Proof.Machine

/-! ## Need -/

theorem ofSlotIn_iff (n : Slot) (p : EntryState → Bool) (e : Entry) :
    ofSlotIn n p e = true ↔ e.state ≠ .free ∧ e.slot = n ∧ p e.state = true := by
  simp [ofSlotIn, ofSlot, and_assoc]

theorem isLive_ne_free {st : EntryState} (h : isLive st = true) : st ≠ .free := by rintro rfl; simp [isLive] at h

theorem needsPower_ne_free {st : EntryState} (h : needsPower st = true) : st ≠ .free := by
  rintro rfl; simp [needsPower] at h

theorem isLive_needsPower {st : EntryState} (h : isLive st = true) : needsPower st = true := by
  revert h; cases st <;> simp [isLive, needsPower]

theorem hasLive_iff (s : State) (n : Slot) :
    hasLive s n = true ↔ ∃ i : Idx, (s.entry i).slot = n ∧ isLive (s.entry i).state = true := by
  simp only [hasLive, List.any_eq_true, mem_allIdx, true_and, ofSlotIn_iff]
  exact exists_congr fun i => ⟨fun h => h.2, fun h => ⟨isLive_ne_free h.2, h⟩⟩

theorem hasNeed_iff (s : State) (n : Slot) :
    hasNeed s n = true ↔ ∃ i : Idx, (s.entry i).slot = n ∧ needsPower (s.entry i).state = true := by
  simp only [hasNeed, List.any_eq_true, mem_allIdx, true_and, ofSlotIn_iff]
  exact exists_congr fun i => ⟨fun h => h.2, fun h => ⟨needsPower_ne_free h.2, h⟩⟩

theorem hasLive_of_table {s t : State} (h : t.table = s.table) (n : Slot) : hasLive t n = hasLive s n := by
  simp only [hasLive, entry_of_table h]

theorem hasNeed_of_table {s t : State} (h : t.table = s.table) (n : Slot) : hasNeed t n = hasNeed s n := by
  simp only [hasNeed, entry_of_table h]

/-! ## Judging a slot -/

@[simp] theorem unpowerSlot_slotRec_same (n : Slot) (st : SlotState) (s : State) :
    (unpowerSlot n st s).slotRec n = { switchedOff (s.slotRec n) with state := st, key := none } := by
  simp only [unpowerSlot, leaveInrush_slotRec, slotRec_setSlot_same]

theorem unpowerSlot_slotRec_ne {n m : Slot} (h : m ≠ n) (st : SlotState) (s : State) :
    (unpowerSlot n st s).slotRec m = s.slotRec m := by
  simp only [unpowerSlot, leaveInrush_slotRec, slotRec_setSlot_ne s _ h]

@[simp] theorem unpowerSlot_inrush (n : Slot) (st : SlotState) (s : State) :
    (unpowerSlot n st s).inrush = s.inrush.filter (· != n) := rfl

/-- The condition under which a slot loses its power or its place (the table of R150). -/
def needGone (s : State) (n : Slot) : Prop :=
  ((s.slotRec n).state = .on ∧ hasLive s n = false)
  ∨ (((s.slotRec n).state = .queued ∨ (s.slotRec n).state = .suspended) ∧ hasNeed s n = false)

theorem judgeNeed_gone {n : Slot} {s : State} (h : needGone s n) : judgeNeed n s = unpowerSlot n .idle s := by
  unfold judgeNeed
  rcases h with ⟨h, h2⟩ | ⟨h | h, h2⟩ <;> simp [h, h2]

theorem judgeNeed_kept {n : Slot} {s : State} (h : ¬ needGone s n) : judgeNeed n s = s := by
  unfold judgeNeed
  unfold needGone at h
  split <;> simp_all

theorem judgeNeed_slotRec_ne {n m : Slot} (h : m ≠ n) (s : State) : (judgeNeed n s).slotRec m = s.slotRec m := by
  by_cases hg : needGone s n
  · rw [judgeNeed_gone hg, unpowerSlot_slotRec_ne h]
  · rw [judgeNeed_kept hg]

/-- A slot that is EMPTY, IDLE, TRIPPED or BLOCKED is not touched by the judging of its need. -/
theorem judgeNeed_unpowered {n : Slot} {s : State} (h1 : (s.slotRec n).state ≠ .on) (h2 : (s.slotRec n).state ≠ .queued)
    (h3 : (s.slotRec n).state ≠ .suspended) : judgeNeed n s = s :=
  judgeNeed_kept (by simp [needGone, h1, h2, h3])

theorem tellNeed_slotRec_ne {e : Entry} {m : Slot} (h : m ≠ e.slot) (s : State) : (tellNeed e s).slotRec m = s.slotRec m := by
  unfold tellNeed; split
  · exact judgeNeed_slotRec_ne h s
  · rfl

/-! ## The transitions -/

/-- The state a freed entry leaves before its slot is told. -/
theorem freeEntry_eq (i : Idx) (s : State) :
    freeEntry i s = tellNeed (s.entry i) (dropNotices (s.entry i).slot i (leaveLists i
      (s.setEntry i { blankEntry with gen := (s.entry i).gen + 1 }))) := rfl

theorem freeEntry_slotRec_ne {i : Idx} {m : Slot} (s : State) (h : m ≠ (s.entry i).slot) :
    (freeEntry i s).slotRec m = s.slotRec m := by
  rw [freeEntry_eq, tellNeed_slotRec_ne h]; rfl

theorem retireWith_slotRec_ne {c : Option Cause} {i : Idx} {m : Slot} (s : State) (h : m ≠ (s.entry i).slot) :
    (retireWith c i s).slotRec m = s.slotRec m := by
  unfold retireWith; dsimp only; rw [tellNeed_slotRec_ne h]; rfl

theorem recallEntry_slotRec_ne {i : Idx} {m : Slot} (s : State) (h : m ≠ (s.entry i).slot) :
    (recallEntry i s).slotRec m = s.slotRec m := by
  unfold recallEntry; rw [tellNeed_slotRec_ne h]; split <;> rfl

/-- A freeing on a slot that is EMPTY, IDLE, TRIPPED or BLOCKED leaves every slot as it was. -/
theorem freeEntry_slots {i : Idx} (s : State) (h1 : (s.slotRec (s.entry i).slot).state ≠ .on)
    (h2 : (s.slotRec (s.entry i).slot).state ≠ .queued) (h3 : (s.slotRec (s.entry i).slot).state ≠ .suspended) :
    (freeEntry i s).slots = s.slots ∧ (freeEntry i s).inrush = s.inrush := by
  rw [freeEntry_eq]; unfold tellNeed
  split
  · rw [judgeNeed_unpowered] <;> first | exact ⟨rfl, rfl⟩ | assumption
  · exact ⟨rfl, rfl⟩

theorem retireWith_slots {c : Option Cause} {i : Idx} (s : State) (h1 : (s.slotRec (s.entry i).slot).state ≠ .on)
    (h2 : (s.slotRec (s.entry i).slot).state ≠ .queued) (h3 : (s.slotRec (s.entry i).slot).state ≠ .suspended) :
    (retireWith c i s).slots = s.slots ∧ (retireWith c i s).inrush = s.inrush := by
  unfold retireWith tellNeed; dsimp only
  split
  · rw [judgeNeed_unpowered] <;> first | exact ⟨rfl, rfl⟩ | assumption
  · exact ⟨rfl, rfl⟩

/-- An entry that stops needing power and whose slot is then told leaves its slot as NeedLost says (R150). -/
theorem tellNeed_needLost {s t u : State} {i : Idx} (h1 : ∀ j, j ≠ i → u.entry j = s.entry j) (h2 : needsPower (u.entry i).state = false)
    (h3 : u.slots = s.slots) (h4 : u.inrush = s.inrush) (ht : t = tellNeed (s.entry i) u) : NeedLost s t i := by
  have hr := slotRec_of_slots h3
  have h2' : isLive (u.entry i).state = false := by
    cases h : isLive (u.entry i).state with
    | false => rfl
    | true => rw [isLive_needsPower h] at h2; simp at h2
  have hL : hasLive u (s.entry i).slot = false ↔ ¬ ∃ j : Idx, j ≠ i ∧ (s.entry j).slot = (s.entry i).slot ∧ isLive (s.entry j).state = true := by
    rw [← Bool.not_eq_true, hasLive_iff]
    refine not_congr (exists_congr fun j => ?_)
    by_cases hj : j = i
    · subst hj; simp [h2']
    · simp [hj, h1 j hj]
  have hN : hasNeed u (s.entry i).slot = false ↔ ¬ ∃ j : Idx, j ≠ i ∧ (s.entry j).slot = (s.entry i).slot ∧ needsPower (s.entry j).state = true := by
    rw [← Bool.not_eq_true, hasNeed_iff]
    refine not_congr (exists_congr fun j => ?_)
    by_cases hj : j = i
    · subst hj; simp [h2]
    · simp [hj, h1 j hj]
  subst ht
  refine ⟨fun m hm => ?_, ?_, ?_⟩
  · rw [tellNeed_slotRec_ne hm, hr]
  · rintro ⟨hp, h⟩
    have hg : needGone u (s.entry i).slot := by
      unfold needGone; rw [hr, hL, hN]; exact h
    simp only [tellNeed, hp, if_true, judgeNeed_gone hg, unpowerSlot_slotRec_same, unpowerSlot_inrush, hr, h4]
    exact ⟨rfl, trivial⟩
  · intro h
    unfold tellNeed
    split
    · next hp =>
      rw [judgeNeed_kept]
      · exact ⟨hr _, h4⟩
      · unfold needGone; rw [hr, hL, hN]; intro hh; exact h ⟨hp, hh⟩
    · exact ⟨hr _, h4⟩

/-! ## Several entries of one slot -/

theorem retireAll_slotRec_ne (c : Cause) (n m : Slot) (h : m ≠ n) (l : List Idx) (s : State)
    (hl : ∀ i ∈ l, (s.entry i).slot = n) : (retireAll c l s).slotRec m = s.slotRec m := by
  induction l generalizing s with
  | nil => rfl
  | cons i l ih =>
    have hi : (s.entry i).slot = n := hl i (by simp)
    rw [retireAll_cons, ih]
    · exact retireWith_slotRec_ne s (hi ▸ h)
    · intro j hj
      have := hl j (by simp [hj])
      rw [retireEntry, retireWith_entry]; split
      · exact hi
      · exact this

theorem retireAll_slots (c : Cause) (n : Slot) (l : List Idx) (s : State) (hl : ∀ i ∈ l, (s.entry i).slot = n)
    (h1 : (s.slotRec n).state ≠ .on) (h2 : (s.slotRec n).state ≠ .queued) (h3 : (s.slotRec n).state ≠ .suspended) :
    (retireAll c l s).slots = s.slots ∧ (retireAll c l s).inrush = s.inrush := by
  induction l generalizing s with
  | nil => exact ⟨rfl, rfl⟩
  | cons i l ih =>
    have hi : (s.entry i).slot = n := hl i (by simp)
    obtain ⟨ks, ki⟩ := retireWith_slots (c := some c) (i := i) s (hi ▸ h1) (hi ▸ h2) (hi ▸ h3)
    have kr := slotRec_of_slots ks n
    rw [retireAll_cons]
    obtain ⟨js, ji⟩ := ih (retireEntry c i s) (fun j hj => by
      have := hl j (by simp [hj])
      rw [retireEntry, retireWith_entry]; split
      · exact hi
      · exact this) (by rw [retireEntry, kr]; exact h1) (by rw [retireEntry, kr]; exact h2) (by rw [retireEntry, kr]; exact h3)
    exact ⟨js.trans ks, ji.trans ki⟩

theorem freeAll_slots (n : Slot) (l : List Idx) (hn : l.Nodup) (s : State) (hl : ∀ i ∈ l, (s.entry i).slot = n)
    (h1 : (s.slotRec n).state ≠ .on) (h2 : (s.slotRec n).state ≠ .queued) (h3 : (s.slotRec n).state ≠ .suspended) :
    (freeAll l s).slots = s.slots ∧ (freeAll l s).inrush = s.inrush := by
  induction l generalizing s with
  | nil => exact ⟨rfl, rfl⟩
  | cons i l ih =>
    obtain ⟨hni, hn⟩ := List.nodup_cons.mp hn
    have hi : (s.entry i).slot = n := hl i (by simp)
    obtain ⟨ks, ki⟩ := freeEntry_slots (i := i) s (hi ▸ h1) (hi ▸ h2) (hi ▸ h3)
    have kr := slotRec_of_slots ks n
    rw [freeAll_cons]
    obtain ⟨js, ji⟩ := ih hn (freeEntry i s) (fun j hj => by
      rw [freeEntry_entry, if_neg (by rintro rfl; exact hni hj)]
      exact hl j (by simp [hj])) (by rw [kr]; exact h1) (by rw [kr]; exact h2) (by rw [kr]; exact h3)
    exact ⟨js.trans ks, ji.trans ki⟩

/-! ## Several entries: outboxes -/

theorem freeAll_outbox_ne (n m : Slot) (h : m ≠ n) (l : List Idx) (hn : l.Nodup) (s : State)
    (hl : ∀ i ∈ l, (s.entry i).slot = n) : (freeAll l s).outbox m = s.outbox m := by
  induction l generalizing s with
  | nil => rfl
  | cons i l ih =>
    obtain ⟨hni, hn⟩ := List.nodup_cons.mp hn
    have hi : (s.entry i).slot = n := hl i (by simp)
    rw [freeAll_cons, ih hn]
    · rw [freeEntry_outbox, if_neg (hi ▸ h)]
    · intro j hj
      rw [freeEntry_entry, if_neg (by rintro rfl; exact hni hj)]
      exact hl j (by simp [hj])

/-- The CLOSED notices of a retirement stand at the tail of the slot's queue in the order of the list. -/
theorem retireAll_outbox (c : Cause) (n : Slot) (l : List Idx) (hn : l.Nodup) (s : State)
    (hl : ∀ i ∈ l, (s.entry i).slot = n) :
    (∀ m : Slot, m ≠ n → (retireAll c l s).outbox m = s.outbox m)
    ∧ ((retireAll c l s).outbox n).reply = (s.outbox n).reply
    ∧ ∃ closed : List Notice,
        ((retireAll c l s).outbox n).notices = (s.outbox n).notices.filter (fun x => !l.contains x.index) ++ closed
        ∧ closed.map Notice.index = l
        ∧ ∀ x ∈ closed, x.kind = .closed ∧ x.level = 0 ∧ x.gen = (s.entry x.index).gen ∧ x.tag = (s.entry x.index).tag := by
  induction l generalizing s with
  | nil => exact ⟨fun _ _ => rfl, rfl, [], by simp [retireAll_nil], rfl, by simp⟩
  | cons i l ih =>
    obtain ⟨hni, hn⟩ := List.nodup_cons.mp hn
    have hi : (s.entry i).slot = n := hl i (by simp)
    have he : ∀ j ∈ l, (retireEntry c i s).entry j = s.entry j := by
      intro j hj
      rw [retireEntry, retireWith_entry, if_neg (by rintro rfl; exact hni hj)]
    obtain ⟨h1, h2, closed, h3, h4, h5⟩ := ih hn (retireEntry c i s) (fun j hj => by rw [he j hj]; exact hl j (by simp [hj]))
    rw [retireAll_cons]
    refine ⟨fun m hm => ?_, ?_, ⟨s.nextItem, .closed, i, (s.entry i).gen, (s.entry i).tag, 0⟩ :: closed, ?_, ?_, ?_⟩
    · rw [h1 m hm, retireEntry, retireWith_outbox, if_neg (hi ▸ hm)]
    · rw [h2, retireEntry, retireWith_outbox, if_pos hi.symm]
    · rw [h3, retireEntry, retireWith_outbox, if_pos hi.symm, List.filter_append, List.filter_filter]
      have hc : l.contains i = false := by simpa using hni
      simp only [List.filter_cons, hc, Bool.not_false, if_true, List.filter_nil, List.append_assoc, List.singleton_append]
      congr 1
      apply List.filter_congr
      intro x _
      by_cases hx : x.index = i <;> simp [hx]
    · simp [h4]
    · intro x hx
      rcases List.mem_cons.mp hx with rfl | hx
      · exact ⟨rfl, rfl, rfl, rfl⟩
      · obtain ⟨a, b, d, f⟩ := h5 x hx
        have hm : x.index ∈ l := h4 ▸ List.mem_map_of_mem hx
        rw [he _ hm] at d f
        exact ⟨a, b, d, f⟩

/-! ## Every slot, and every entry of a slot -/

/-- A change made to one slot after another is made to each slot once. -/
theorem foldl_setSlot (f : Slot → SlotRec → SlotRec) (l : List Slot) (hl : l.Nodup) (s : State) (m : Slot) :
    (l.foldl (fun t n => t.setSlot n (f n (t.slotRec n))) s).slotRec m =
      if m ∈ l then f m (s.slotRec m) else s.slotRec m := by
  induction l generalizing s with
  | nil => simp
  | cons n l ih =>
    obtain ⟨h1, h2⟩ := List.nodup_cons.mp hl
    rw [List.foldl_cons, ih h2]
    by_cases h : m = n
    · subst h; simp [h1]
    · simp [h, slotRec_setSlot_ne s _ h]

/-- A turn-on makes the slot's ENABLING entries live and leaves every other entry as it was (R153). -/
theorem energize_entry (n : Slot) (s : State) (j : Idx) :
    (energize n s).entry j =
      if (s.entry j).slot = n ∧ (s.entry j).state = .enabling then { s.entry j with state := poweredState (s.entry j) }
      else s.entry j := by
  have key : ∀ (l : List Idx) (_ : l.Nodup) (t : State),
      (l.foldl (fun t i => t.setEntry i { t.entry i with state := poweredState (t.entry i) }) t).entry j =
        if j ∈ l then { t.entry j with state := poweredState (t.entry j) } else t.entry j := by
    intro l hl
    induction l with
    | nil => simp
    | cons i l ih =>
      intro t
      obtain ⟨h1, h2⟩ := List.nodup_cons.mp hl
      rw [List.foldl_cons, ih h2]
      by_cases h : j = i
      · subst h; simp [h1]
      · simp [h, entry_setEntry]
  rw [energize, key _ (nodup_entriesWhere ..)]
  have hm : j ∈ entriesWhere s (ofSlotIn n fun st => st == .enabling)
      ↔ ((s.entry j).slot = n ∧ (s.entry j).state = .enabling) := by
    rw [mem_entriesWhere, ofSlotIn_iff, beq_iff_eq]
    exact ⟨fun h => h.2, fun h => ⟨by rw [h.2]; decide, h⟩⟩
  simp only [hm]

theorem energize_eq (n : Slot) (s : State) : energize n s = { s with table := (energize n s).table } := by
  unfold energize
  generalize entriesWhere s _ = l
  induction l generalizing s with
  | nil => rfl
  | cons i l ih => rw [List.foldl_cons, ih]; rfl

end Sys2Proof.Machine
end

