-- ==== Sys2Proof/Laws/Budget.lean ====
section
/-! SUPPORT. The totals H and P of the Budget Account under the change of one entry (R50, R51), and what leaves them
alone; the walk of the shed plan (R63) and positions in a list (R19). -/

namespace Sys2Proof.Machine

theorem sum_map_set {α : Type} [DecidableEq α] (f g : α → Nat) (a : α) (l : List α) (hl : l.Nodup) (ha : a ∈ l)
    (h : ∀ x, x ≠ a → g x = f x) : (l.map g).sum + f a = (l.map f).sum + g a := by
  induction l with
  | nil => simp at ha
  | cons x l ih =>
    obtain ⟨h1, h2⟩ := List.nodup_cons.mp hl
    simp only [List.map_cons, List.sum_cons]
    by_cases hx : a = x
    · subst hx
      have hc : l.map g = l.map f := List.map_congr_left fun y hy => h y (by rintro rfl; exact h1 hy)
      rw [hc]; omega
    · have := ih h2 ((List.mem_cons.mp ha).resolve_left hx)
      rw [h x (fun hh => hx hh.symm)]; omega

theorem heldTotal_of_table {s t : State} (h : t.table = s.table) : heldTotal t = heldTotal s := by
  simp only [heldTotal, entry_of_table h]

theorem pendingTotal_of_table {s t : State} (h : t.table = s.table) : pendingTotal t = pendingTotal s := by
  simp only [pendingTotal, entry_of_table h]

/-- H moves by the change of the one entry's held level (R50). -/
theorem heldTotal_change {s t : State} (i : Idx) (h : ∀ j, j ≠ i → t.entry j = s.entry j) :
    heldTotal t + (s.entry i).held = heldTotal s + (t.entry i).held :=
  sum_map_set (fun j => (s.entry j).held) (fun j => (t.entry j).held) i allIdx nodup_allIdx (mem_allIdx i)
    fun j hj => by simp only [h j hj]

/-- P moves by the change of the one entry's contribution (R51). -/
theorem pendingTotal_change {s t : State} (i : Idx) (h : ∀ j, j ≠ i → t.entry j = s.entry j) :
    pendingTotal t + pendingOf (s.entry i) = pendingTotal s + pendingOf (t.entry i) :=
  sum_map_set (fun j => pendingOf (s.entry j)) (fun j => pendingOf (t.entry j)) i allIdx nodup_allIdx (mem_allIdx i)
    fun j hj => by simp only [h j hj]

/-- An entry contributes no more to P than it holds (R51). -/
theorem pendingOf_le (e : Entry) : pendingOf e ≤ e.held := by
  unfold pendingOf; split <;> omega

theorem sum_map_le {α : Type} (f g : α → Nat) (l : List α) (h : ∀ x, f x ≤ g x) : (l.map f).sum ≤ (l.map g).sum := by
  induction l with
  | nil => simp
  | cons x l ih => simp only [List.map_cons, List.sum_cons]; exact Nat.add_le_add (h x) ih

/-- P never exceeds H. -/
theorem pendingTotal_le (s : State) : pendingTotal s ≤ heldTotal s := sum_map_le _ _ _ fun i => pendingOf_le (s.entry i)

/-- An entry holds no more than H. -/
theorem held_le_heldTotal (s : State) (i : Idx) : (s.entry i).held ≤ heldTotal s :=
  List.single_le_sum (fun _ _ => Nat.zero_le _) _ (List.mem_map_of_mem (mem_allIdx i))

/-! ## Walking candidates while D is above 0 (R63) -/

theorem whileExcess_nil (act : Idx → State → State) (s : State) : whileExcess act [] s = s := rfl

theorem whileExcess_cons (act : Idx → State → State) (i : Idx) (l : List Idx) (s : State) :
    whileExcess act (i :: l) s = whileExcess act l (if excess s = 0 then s else act i s) := rfl

/-- With D at 0 every remaining candidate is left. -/
theorem whileExcess_done (act : Idx → State → State) (l : List Idx) {s : State} (h : excess s = 0) :
    whileExcess act l s = s := by
  induction l with
  | nil => rfl
  | cons i l ih => rw [whileExcess_cons, if_pos h, ih]

/-! ## Positions in a list (R19) -/

theorem length_takeWhile_ne (l : List Idx) (i : Idx) : (l.takeWhile (· != i)).length = l.idxOf i := by
  induction l with
  | nil => rfl
  | cons a l ih =>
    by_cases h : a = i
    · simp [h]
    · simp [h, ih]

/-- An entry in a list has the position one above its index there. -/
theorem positionIn_of_mem {l : List Idx} {i : Idx} (h : i ∈ l) : positionIn l i = l.idxOf i + 1 := by
  simp [positionIn, h, length_takeWhile_ne]

/-- In a list that holds each entry once, the places of two entries compare as their positions. -/
theorem positionIn_lt_iff {l : List Idx} (hn : l.Nodup) {a b : Nat} (ha : a < l.length) (hb : b < l.length) :
    positionIn l l[a] < positionIn l l[b] ↔ a < b := by
  rw [positionIn_of_mem (List.getElem_mem ha), positionIn_of_mem (List.getElem_mem hb), hn.idxOf_getElem, hn.idxOf_getElem]
  omega

end Sys2Proof.Machine
end

