-- ==== Sys2Proof/Laws/ModuleBus.lean ====
section
/-! SUPPORT. What the Module Bus Interface can touch, when it takes a message, and what its bytes are: the lemmas a proof about a
bus command or a change of SCL or SDA cites instead of unfolding the interface. -/

namespace Sys2Proof.Machine

/-! ## Entering a state -/

/-- The interface and its stall timer alone move. -/
theorem enterBus_eq (b : Bus) (s : State) :
    enterBus b s = { s with
      bus := b, bits := [], clock := none
      stallTimer := if takesPart b && !s.pins.scl then some (expiryAfter s stallMs) else none } := rfl

@[simp] theorem enterBus_bus (b : Bus) (s : State) : (enterBus b s).bus = b := rfl
@[simp] theorem enterBus_bits (b : Bus) (s : State) : (enterBus b s).bits = [] := rfl
@[simp] theorem enterBus_clock (b : Bus) (s : State) : (enterBus b s).clock = none := rfl
@[simp] theorem enterBus_pins (b : Bus) (s : State) : (enterBus b s).pins = s.pins := rfl
@[simp] theorem enterBus_entry (b : Bus) (s : State) (i : Idx) : (enterBus b s).entry i = s.entry i := rfl
@[simp] theorem enterBus_outbox (b : Bus) (s : State) (n : Slot) : (enterBus b s).outbox n = s.outbox n := rfl
@[simp] theorem enterBus_slotRec (b : Bus) (s : State) (n : Slot) : (enterBus b s).slotRec n = s.slotRec n := rfl
@[simp] theorem enterBus_windowValid (b : Bus) (s : State) : windowValid (enterBus b s) = windowValid s := rfl

/-- Where the interface takes part in nothing, no stall timer runs (R128). -/
theorem enterBus_stopped {b : Bus} (h : takesPart b = false) (s : State) : (enterBus b s).stallTimer = none := by
  simp [enterBus_eq, h]

theorem takesPart_afterEnd (e : BusEnd) : takesPart (afterEnd e) = false := by cases e <;> rfl

/-! ## What ends in flight -/

theorem deliver_only (item : StagedItem) (s : State) : ContractsOnly s (deliver item s) := by
  unfold deliver
  split
  · exact .refl s
  · unfold deliverReply
    split
    · exact .refl s
    · split
      · exact setOutbox_only ..
      · exact .refl s
  · unfold deliverNotice
    split
    · exact .refl s
    · dsimp only
      split
      · exact (keepNotices_only ..).trans (freeEntry_only ..)
      · exact keepNotices_only ..

theorem takeWrite_only (n : Slot) (buffer : List Byte) (s : State) : DecisionsOnly s (takeWrite n buffer s) := by
  unfold takeWrite
  split
  · exact handleMessage_only ..
  · exact .refl s
  · exact .refl s

theorem endInFlight_only (s : State) : DecisionsOnly s (endInFlight s) := by
  unfold endInFlight
  split
  · exact takeWrite_only ..
  · split
    · exact (deliver_only ..).decisions
    · exact .refl s
  all_goals exact .refl s

/-- Where nothing is in flight, a STOP or START moves the interface alone. -/
theorem endInFlight_none {s : State} (h : s.bus = .idle ∨ s.bus = .address ∨ s.bus = .passive ∨ ∃ n, s.bus = .overrun n) :
    endInFlight s = s := by
  unfold endInFlight
  rcases h with h | h | h | ⟨n, h⟩ <;> rw [h]

theorem windowValid_endInFlight (s : State) : windowValid (endInFlight s) = windowValid s := by
  simp only [windowValid, (endInFlight_only s).straps]

@[simp] theorem windowValid_endTransaction (e : BusEnd) (s : State) : windowValid (endTransaction e s) = windowValid s :=
  windowValid_endInFlight s

@[simp] theorem windowValid_startSeen (s : State) : windowValid (startSeen s) = windowValid s :=
  windowValid_endTransaction .restart s

theorem endTransaction_bus (e : BusEnd) (s : State) : (endTransaction e s).bus = afterEnd e := rfl

theorem startSeen_bus (s : State) : (startSeen s).bus = .address := rfl

@[simp] theorem startSeen_inReset (s : State) : (startSeen s).inReset = s.inReset := (endInFlight_only s).inReset

/-- A START leaves nothing in flight. -/
theorem endInFlight_startSeen (s : State) : endInFlight (startSeen s) = startSeen s :=
  endInFlight_none (.inr (.inl (startSeen_bus s)))

/-! ## Bytes -/

/-- The bytes of a write that fit the buffer are received in order (R119). -/
theorem foldl_storeByte (n : Slot) (buffer bytes : List Byte) (h : buffer.length + bytes.length ≤ 16) :
    bytes.foldl storeByte (.receive n buffer) = .receive n (buffer ++ bytes) := by
  induction bytes generalizing buffer with
  | nil => simp
  | cons b bytes ih =>
    simp only [List.length_cons] at h
    have hb : buffer.length < 16 := by omega
    rw [List.foldl_cons]
    simp only [storeByte, hb, if_true]
    rw [ih (buffer ++ [b]) (by simp; omega)]
    simp

theorem received_eq (n : Slot) (bytes : List Byte) (h : bytes.length ≤ 16) : received n bytes = .receive n bytes := by
  simpa [received] using foldl_storeByte n [] bytes (by simpa using h)

/-- After a byte that the controller did not acknowledge nothing more is transferred (R126). -/
theorem transferred_unanswered (record : List Byte) (item : StagedItem) (sent : Nat) (acks : List Bool) :
    transferred acks (.send record item sent false) = .send record item sent false := by
  induction acks with
  | nil => rfl
  | cons a acks ih => exact ih

/-- The record bytes transferred: those up to the first that the controller does not acknowledge, itself included, and no more
than twelve (R126). -/
theorem transferred_send (record : List Byte) (item : StagedItem) (sent : Nat) (acks : List Bool) (h : sent ≤ 12) :
    transferred acks (.send record item sent true) =
      .send record item
        (min 12 (sent + min acks.length ((acks.takeWhile id).length + 1))) (acks.all id) := by
  induction acks generalizing sent with
  | nil => simp [transferred, Nat.min_eq_right h]
  | cons a acks ih =>
    have hs : transferred (a :: acks) (.send record item sent true)
        = transferred acks (.send record item (min 12 (sent + 1)) a) := rfl
    rw [hs]
    cases a
    · rw [transferred_unanswered]
      simp
    · rw [ih _ (Nat.min_le_left ..)]
      simp only [List.length_cons, List.takeWhile_cons, id, if_true, List.all_cons, Bool.true_and]
      congr 1
      omega

/-! ## Changes of SCL and SDA -/

/-- A change of SCL moves the interface and its stall timer alone: no entry, no outbox, no register, no flag. -/
theorem moveScl_eq (high : Bool) (s : State) :
    moveScl high s =
      { s with
        pins := (moveScl high s).pins, bus := (moveScl high s).bus, bits := (moveScl high s).bits
        clock := (moveScl high s).clock, stallTimer := (moveScl high s).stallTimer } := by
  unfold moveScl
  split
  · rfl
  · split
    · rfl
    · unfold sclFall takeBit
      dsimp only
      split
      · rfl
      · split <;> (try split) <;> rfl

/-- A change of SDA is a START, a STOP, or no more than the level. -/
theorem moveSda_cases (high : Bool) (s : State) :
    moveSda high s = startSeen { s with pins := { s.pins with sda := high } }
    ∨ moveSda high s = stopSeen { s with pins := { s.pins with sda := high } }
    ∨ moveSda high s = { s with pins := { s.pins with sda := high } } := by
  unfold moveSda
  dsimp only
  split
  · exact .inl rfl
  · split
    · exact .inr (.inl rfl)
    · exact .inr (.inr rfl)

/-! ## Messages -/

theorem kindOf_kindByte (k : Kind) : kindOf (kindByte k) = some k := by cases k <;> decide

theorem kindByte_of_kindOf {b : Byte} {k : Kind} (h : kindOf b = some k) : b = kindByte k := by
  have hall : ∀ b : Byte, ∀ k ∈ kindOf b, b = kindByte k := by decide +kernel
  exact hall b k h

/-- The row of a kind is the message of its kind byte and body, taken by the rules of the kind (R121). -/
theorem exec_kindCommand (k : Kind) (n : Slot) (body : List Byte) (e : BusEnd) (s : State) :
    exec (kindCommand k n body e) s =
      .next (writeMessage n (kindByte k :: body) (handleKind k n (kindByte k :: body)) e s) := by
  cases k <;> rfl

/-- A message that fits the buffer is handed to the Request Handler when the window is valid, on the state its START leaves
(R120). -/
theorem writeMessage_taken (n : Slot) (b : Byte) (rest : List Byte) (handler : State → State) (e : BusEnd) (s : State)
    (hr : s.inReset = false) (hw : windowValid s = true) (hl : rest.length ≤ 15) :
    writeMessage n (b :: rest) handler e s = enterBus (afterEnd e) (handler (startSeen s)) := by
  simp only [writeMessage, unlessReset_running hr, windowValid_startSeen, hw, if_true]
  rw [received_eq n (b :: rest) (by simp; omega)]

/-- With an invalid window no message is taken (R117). -/
theorem writeMessage_noWindow (n : Slot) (bytes : List Byte) (handler : State → State) (e : BusEnd) (s : State)
    (hr : s.inReset = false) (hw : windowValid s = false) :
    writeMessage n bytes handler e s = enterBus (afterEnd e) (startSeen s) := by
  simp [writeMessage, unlessReset_running hr, hw]

/-- While RSTn is held low no message is taken (R129). -/
theorem writeMessage_held (n : Slot) (bytes : List Byte) (handler : State → State) (e : BusEnd) {s : State}
    (hr : s.inReset = true) : writeMessage n bytes handler e s = s := unlessReset_held hr _

end Sys2Proof.Machine
end

