-- ==== Sys2Proof/Laws/SpiPort.lean ====
section
/-! SUPPORT. What an SPI frame can touch and which command it is: the lemmas a proof about a change of CSn or SCK cites instead of
unfolding the port. -/

namespace Sys2Proof.Machine

/-- The row of a command code is that command (R169). -/
theorem exec_hostCommand (code : Byte) (s : State) :
    exec (hostCommand code) s = .next (unlessReset (runCommand code) s) := by
  unfold unlessReset
  split
  · next h =>
    unfold hostCommand
    repeat' split
    all_goals exact congrArg Host.Outcome.next (unlessReset_held h _)
  · next h =>
    have run : ∀ f, unlessReset f s = f s := unlessReset_running (by simpa using h)
    unfold hostCommand runCommand
    repeat' split
    all_goals first | exact congrArg Host.Outcome.next (run _) | skip
    simp only [exec, execUnknownCommand, runCommand, *, if_false]

/-- The row of a write frame writes the register (R164). -/
theorem exec_writeFrame (r : BitVec 7) (v : Word) (s : State) :
    exec (writeFrame r v) s = .next (unlessReset (writeRegister r v) s) := by
  unfold writeFrame
  split
  · next h => subst h; rfl
  · split
    · next h => subst h; rfl
    · split
      · next h => subst h; rw [exec_hostCommand]; rfl
      · rfl

/-- A change of SCK moves the frame alone. -/
theorem moveSck_eq (high : Bool) (s : State) :
    moveSck high s = { s with pins := (moveSck high s).pins, frame := (moveSck high s).frame } := by
  unfold moveSck
  split <;> rfl

/-- The end of a frame is a register write or nothing (R163). -/
theorem endFrame_cases (f : Frame) (s : State) : (∃ r v, endFrame f s = writeRegister r v s) ∨ endFrame f s = s := by
  unfold endFrame
  split
  · split
    · exact .inl ⟨_, _, rfl⟩
    · exact .inr rfl
  all_goals exact .inr rfl

end Sys2Proof.Machine
end

