-- ==== Sys2Proof/Laws/TimeBase.lean ====
section
/-! SUPPORT. The changes of the pins in and out of device reset, and which events the Time Base has due: the lemmas a proof about
an idle step cites instead of unfolding it. -/

namespace Sys2Proof.Machine

/-! ## The pins -/

/-- While RSTn is held low a change of a pin of the ports moves its level alone (R129, R177). -/
theorem takeWire_held {s : State} (h : s.inReset = true) {w : Wire} (hw : ∀ k, w ≠ .rstnHigh k) :
    takeWire w s = { s with pins := levelsAfter w s.pins } := by
  cases w <;> first | (exact absurd rfl (hw _)) | simp [takeWire, takeWireInReset, h]

theorem takeWire_running {s : State} (h : s.inReset = false) (w : Wire) : takeWire w s = takeWireRunning w s := by
  simp [takeWire, h]

/-! ## The events due -/

/-- While RSTn is held low no event of the part's own timers is due. -/
theorem eventsDue_held {s : State} (h : s.inReset = true) (hs : ResetOk s) : eventsDue s = [] := by
  have hn : ∀ n, s.slotRec n = emptySlot := fun n => by rw [hs h]; exact Vector.getElem_replicate ..
  have hi : ∀ i, s.entry i = blankEntry := fun i => by rw [hs h]; exact Vector.getElem_replicate ..
  have hc : s.candidate = none := by rw [hs h]; rfl
  have hp : s.supply = .unqualified := by rw [hs h]; rfl
  have hk : s.stallTimer = none := by rw [hs h]; rfl
  simp [eventsDue, slotEventsDue, entryEventsDue, eventIf, hn, hi, hc, hp, hk, emptySlot, blankEntry, due, holdDue, tripDue,
    cooldownDue, deadlineDue, leaseDue, warningDue, countsLease, turnOnDue]

theorem mem_eventIf (p : Bool) (c x : Instr) : c ∈ eventIf p x ↔ c = x ∧ p = true := by
  unfold eventIf
  cases p <;> simp

/-- The lease of an entry in order has run its whole length (R91). -/
theorem leaseDue_iff {s : State} {i : Idx} (h : EntryOk (s.entry i)) :
    leaseDue s i = true ↔ ∃ p, (s.entry i).period = some p ∧ p.start + 1000 * (s.entry i).lease ≤ ticks s := by
  obtain ⟨-, -, -, -, -, -, -, -, -, -, runs, -⟩ := h
  unfold leaseDue leaseLeft
  cases hp : (s.entry i).period with
  | none => simp
  | some p =>
    rw [hp] at runs
    simp [(runs.1 rfl).1]
    have := (runs.1 rfl).2
    omega

/-- The count of an entry in order has come to the warning point of its period for the first time (R92). -/
theorem warningDue_iff {s : State} {i : Idx} (h : EntryOk (s.entry i)) :
    warningDue s i = true ↔
      ∃ p, (s.entry i).period = some p ∧ p.warned = false ∧ p.warnPoint < (s.entry i).lease
        ∧ p.start + 1000 * ((s.entry i).lease - p.warnPoint) ≤ ticks s := by
  obtain ⟨-, -, -, -, -, -, -, -, -, -, runs, -⟩ := h
  unfold warningDue leaseLeft
  cases hp : (s.entry i).period with
  | none => simp
  | some p =>
    rw [hp] at runs
    simp only [(runs.1 rfl).1, Bool.true_and, Bool.and_eq_true, Bool.not_eq_true', decide_eq_true_eq, and_assoc,
      Option.some.injEq, exists_eq_left']
    refine and_congr_right fun _ => and_congr_right fun _ => ?_
    omega

/-- The conditions of a turn-on (R152). -/
theorem turnOnDue_iff (s : State) :
    turnOnDue s = true ↔ atTick s = true ∧ s.supply = .operating ∧ s.inrush ≠ []
      ∧ ∀ t, s.lastOn = some t → t + duration s .inrush ≤ ticks s := by
  unfold turnOnDue spacingPassed
  cases s.lastOn <;> simp <;> tauto

end Sys2Proof.Machine
end

