-- ==== Sys2Proof/Tests/Slice0.lean ====
section
/-! SUPPORT. Small checks: terms the well-formedness check refuses, values the spec writes out, and, for every statement with
hypotheses, states and operands that meet them, each clause at a boundary value. -/

namespace Sys2Proof.Tests

open Sys2Proof.Machine

set_option Elab.async false

/-! ## Small states -/

/-- The configuration of the tests: capacities 100, 200 and 300, every other item at its default. -/
def config : Vector Word 21 := ((defaultConfig.set 3 100).set 4 200).set 5 300

/-- A slot record with the fields its state needs. -/
def slotIn (r : SlotState) : SlotRec :=
  { state := r, seated := true, presence := none, switch := r == .on, key := if r = .queued then some 2 else none,
    blanking := none, fault := none, stable := if r = .on then some 9 else none,
    cooldown := if r = .tripped then some 7 else none, trips := 0 }

/-- An entry of slot 3, tag 5, class 2, requested 100, floor 40, lease 60 s, with the fields its state needs. -/
def entryIn (st : EntryState) : Entry :=
  if st = .free then blankEntry
  else
    { gen := 0, state := st, slot := 3, tag := 5, cls := 2, requested := 100, floor := 40
      held := if st = .reduced then 40 else if isAdmitted st then 100 else 0
      target := if st = .reducing then some 60 else none
      lease := 60
      period := if countsLease st then some { start := 0, warnPoint := 10, warned := false } else none
      cause := if st = .revoking ∨ st = .retired then some .shed else none
      deadline := if st = .offered ∨ st = .reducing ∨ st = .revoking ∨ st = .retired then some 7 else none }

/-- The part in OPERATING with C = 300, entry 0 in a state and slot 3 in a state, after a START. -/
def board (st : EntryState) (r : SlotState) : State :=
  { State.reset with
    table := (Vector.replicate 32 blankEntry).set 0 (entryIn st)
    waitQueue := if st = .waiting then [0] else []
    admission := if isAdmitted st then [0] else []
    capacity := 300
    outboxes := (Vector.replicate 12 emptyOutbox).set 3
      { reply := none, notices := if st = .retired then [⟨0, .closed, 0, 0, 5, 0⟩] else [] }
    nextItem := 1
    bus := .address
    sampled := 3, qualified := some 3, supply := .operating
    slots := (Vector.replicate 12 emptySlot).set 3 (slotIn r)
    inrush := if r = .queued then [3] else []
    staged := config, active := config }

/-- The same in HOLD, with its hold timer due at tick 7. -/
def held (st : EntryState) (r : SlotState) : State :=
  { board st r with supply := .hold, qualified := some 0, sampled := 0, holdTimer := some 7 }

/-- The state at tick t. -/
def atMs (t : Nat) (s : State) : State := { s with now := 2 * t }

/-- The body of a message of slot 3 with its check byte (k = 2). -/
def sealed (k : Kind) (fields : List Byte) : List Byte := fields ++ [crc8 (writeAddr 2 3 :: kindByte k :: fields)]

/-- The state a command leaves. -/
def after (c : Instr) (s : State) : State :=
  match exec c s with
  | .next t => t
  | .fault _ => s
  | .refused _ => s

/-- A table whose first m entries stand in a state, four to a slot from slot n on. -/
def crowd (m n : Nat) (st : EntryState) (s : State) : State :=
  { s with table := Vector.ofFn fun i : Idx =>
      if i.val < m then { entryIn st with slot := Fin.ofNat 12 (n + i.val / 4), tag := Fin.ofNat 16 (i.val % 4) }
      else blankEntry }

/-- The state a change of a pin leaves. -/
def wired (w : Wire) (s : State) : State := takeWire w s

/-- The board with the interface in a state and the bits of a byte taken, SCL high with SDA sampled high. -/
def onBus (b : Bus) (bits : List Bool) : State :=
  { board .free .idle with bus := b, bits := bits, clock := some true }

/-- The bits of a byte, most significant bit first. -/
def bitsOf (b : Byte) : List Bool := (List.range 8).map fun k => b.getMsbD k

/-! ## How the hypotheses are met -/

theorem passes {s : State} {k : Kind} {n : Slot} {msg : List Byte}
    (h : (!s.inReset && windowValid s && checkOk s.straps n msg && msg.length == kindLength k && fieldsInRange k msg
      && (s.slotRec n).seated && (k != .claim || ((s.slotRec n).state != .blocked && (s.slotRec n).state != .tripped)))
      = true) : Passes s k n msg := by
  simp only [Bool.and_eq_true, beq_iff_eq, Bool.or_eq_true, bne_iff_ne, Bool.not_eq_true'] at h
  obtain ⟨⟨⟨⟨⟨⟨h0, h1⟩, h2⟩, h3⟩, h4⟩, h5⟩, h6⟩ := h
  exact ⟨h0, h1, h2, h3, h4, h5, fun hk => h6.resolve_left (fun hh => hh hk)⟩

theorem names {s : State} {n : Slot} {msg : List Byte} {i : Idx}
    (h : ((byteAt msg 1).toNat == i.val && (s.entry i).state != .free && (s.entry i).gen == byteAt msg 2
      && (s.entry i).slot == n) = true) : NamesEntry s n msg i := by
  simp only [Bool.and_eq_true, beq_iff_eq, bne_iff_ne] at h
  exact ⟨h.1.1.1, h.1.1.2, h.1.2, h.2⟩

/-- A message of slot 3 passes the validation order and names entry 0. -/
def Reaches (k : Kind) (fields : List Byte) (s : State) : Prop :=
  Passes s k 3 (kindByte k :: sealed k fields) ∧ NamesEntry s 3 (kindByte k :: sealed k fields) 0

/-- The tests of passes and names together. -/
def reachesB (k : Kind) (fields : List Byte) (s : State) : Bool :=
  let msg := kindByte k :: sealed k fields
  !s.inReset && windowValid s && checkOk s.straps 3 msg && msg.length == kindLength k && fieldsInRange k msg
    && (s.slotRec 3).seated && (k != .claim || ((s.slotRec 3).state != .blocked && (s.slotRec 3).state != .tripped))
    && ((byteAt msg 1).toNat == 0 && (s.entry 0).state != .free && (s.entry 0).gen == byteAt msg 2 && (s.entry 0).slot == 3)

theorem reaches_of {k : Kind} {fields : List Byte} {s : State} (h : reachesB k fields s = true) : Reaches k fields s := by
  rw [reachesB, Bool.and_eq_true] at h
  exact ⟨passes h.1, names h.2⟩

theorem reaches_all {k : Kind} {fields : List Byte} {l : List State} (h : l.all (reachesB k fields) = true) :
    ∀ s ∈ l, Reaches k fields s := fun s hs => reaches_of (List.all_eq_true.mp h s hs)

/-! ## Well-formed operands -/

theorem test_messageTooLong : (Instr.claim 3 (List.replicate 16 0) .stop).wellFormed = false := by decide
theorem test_messageLongest : (Instr.claim 3 (List.replicate 15 0) .stop).wellFormed = true := by decide
theorem test_otherMessagesTooLong :
    (∀ k ∈ [Kind.confirm, .adjust, .comply, .renew, .release, .query],
      (kindCommand k 3 (List.replicate 16 0) .stop).wellFormed = false) := by decide
theorem test_refusedMessageEmpty : (Instr.refusedMessage 3 [] .stop).wellFormed = false := by decide
theorem test_refusedMessageTooLong : (Instr.refusedMessage 3 (List.replicate 17 0) .stop).wellFormed = false := by decide
theorem test_unknownCommandKnown : ∀ c : Fin 8, (Instr.unknownCommand (BitVec.ofNat 8 (c.val + 1))).wellFormed = false := by
  decide
theorem test_registerWriteOwnRow :
    (Instr.registerWrite 0x07 0).wellFormed = false ∧ (Instr.registerWrite 0x08 0).wellFormed = false
    ∧ (Instr.registerWrite 0x09 0).wellFormed = false := by decide

/-! ## Values the spec writes out -/

/-- 7.9: the check over 0x46, 0x07, 0x05, and its values on the way. -/
theorem test_checkOfTheExample :
    crcByte 0xFF 0x46 = 0x26 ∧ crcByte 0x26 0x07 = 0xE7 ∧ crc8 [0x46, 0x07, 0x05] = 0xA0
    ∧ writeAddr 2 3 = 0x46 ∧ readAddr 2 (.slot 3) = 0x47 := by decide +kernel

/-- The state of the example of 7.9: entry 7 of slot 3, generation 1, tag 5, ACTIVE at 120, a standing contract. -/
def example79 : State :=
  (board .free .on).setEntry 7
    { entryIn .active with gen := 1, requested := 120, held := 120, lease := 0, period := none }

/-- 7.9: the QUERY, its staged reply, a read of 8 bytes and one of 12, the twelfth not acknowledged. -/
theorem test_queryOfTheExample :
    let t := after (.query 3 [0x05, 0xA0] .restart) example79
    let u := after (.readStaging (.slot 3)) t
    u.bus = .send [0x10, 0x07, 0, 0, 0x07, 0x01, 0x04, 0, 0x78, 0, 0,
        crc8 [0x47, 0x10, 0x07, 0, 0, 0x07, 0x01, 0x04, 0, 0x78, 0, 0]] (.reply 3 1) 0 true
    ∧ t.bus = .address
    ∧ ((after (.readEnd (List.replicate 8 true) .stop) u).outbox 3).reply.isSome = true
    ∧ ((after (.readEnd (List.replicate 11 true ++ [false]) .stop) u).outbox 3).reply = none := by decide +kernel

/-- 7.9: the same bytes written to slot 4 are refused at step 1. -/
theorem test_otherSlotOfTheExample :
    let t := after (.refusedMessage 4 [0x07, 0x05, 0xA0] .stop) example79
    (t.outbox 4).reply.map (fun r => (r.kind, r.status, r.named)) = some (0x07, .checkError, none)
    ∧ t.outbox 3 = example79.outbox 3 := by decide +kernel

/-- R168: T1 = 700 and T2 = 640 fail at T2, and so does T2 = 1100. -/
theorem test_applyFailsAtT2 :
    (after .apply { State.reset with staged := State.reset.staged.set 0 700 }).result = 0x0241
    ∧ (after .apply { State.reset with staged := State.reset.staged.set 1 1100 }).result = 0x0241 := by decide +kernel

/-- 11.1, in part: slot 3 claims 300 with floor 100 at headroom 150 and is offered 150 with extra 50. -/
theorem test_partialOffer :
    let s := { board .active .on with capacity := 250 }
    let t := after (.claim 3 (sealed .claim [0, 1, 0x01, 0x2C, 0, 100, 0, 0]) .stop) s
    (t.entry 1).state = .offered ∧ (t.entry 1).held = 150 ∧ t.admission = [0, 1]
    ∧ (t.outbox 3).reply.map (fun r => (r.status, r.held, r.extra)) = some (.accepted, 150, 50) := by decide +kernel

/-- 11.2, in part: the shed plan takes an entry of 250 with floor 100 to the target 100 for D = 150. -/
theorem test_shedTarget :
    let e := { entryIn .active with requested := 250, floor := 100, held := 250 }
    let t := recompute 100 ((board .active .on).setEntry 0 e)
    (t.entry 0).state = .reducing ∧ (t.entry 0).target = some 100 ∧ pendingTotal t = 150
    ∧ (t.outbox 3).notices.map (fun x => (x.kind, x.level)) = [(.reduce, 100)] := by decide +kernel

/-- 11.3, in part: for an excess of 200 over a floor of 100 the entry is reduced and then revoked in one run. -/
theorem test_shedRevokes :
    let t := recompute 0 (board .active .on)
    (t.entry 0).state = .revoking ∧ (t.entry 0).cause = some .shed ∧ pendingTotal t = 100
    ∧ (t.outbox 3).notices.map Notice.kind = [.revoke] := by decide +kernel

/-- A port transfer is the command its bits say (R163, R164, R169, R119). -/
theorem test_transfers :
    spiCommand 24 0x09 0x0008 = some .apply ∧ spiCommand 23 0x09 0x0008 = none ∧ spiCommand 24 0x89 0x0008 = none
    ∧ spiCommand 24 0x07 0x03FF = some (.eventsWrite 0x03FF)
    ∧ busCommand 2 3 [0x07, 0x05, 0xA0] false .stop = .query 3 [0x05, 0xA0] .stop
    ∧ busCommand 2 4 [0x07, 0x05, 0xA0] false .stop = .refusedMessage 4 [0x07, 0x05, 0xA0] .stop
    ∧ busCommand 2 3 [] false .stop = .writeDiscarded 3 .noData .stop := by decide +kernel

/-- 7.9 on the wires: the ninth clocks of the address byte 0x46 and of the third data byte, and the repeated START. -/
theorem test_bytesOfTheExample :
    (wired (.scl false) (onBus .address (bitsOf 0x46))).bus = .receive 3 []
    ∧ (wired (.scl false) (onBus (.receive 3 [0x07, 0x05]) (bitsOf 0xA0))).bus = .receive 3 [0x07, 0x05, 0xA0]
    ∧ (let s := { example79 with bus := .receive 3 [0x07, 0x05, 0xA0], clock := some true }
       wired (.sda false) s = { after (.query 3 [0x05, 0xA0] .restart) example79 with pins := { idlePins with sda := false } }) := by
  decide +kernel

/-- Table 7-1 at k = 2: an address byte outside the window, a write to base + 12, and what the part does to SDA. -/
theorem test_addressBytes :
    addressed 2 0x40 = some (.write 0) ∧ addressed 2 0x57 = some (.read (.slot 11)) ∧ addressed 2 0x58 = none
    ∧ addressed 2 0x59 = some (.read .summary) ∧ addressed 2 0x5A = none ∧ addressed 2 0x3F = none ∧ addressed 0 0x01 = none
    ∧ sdaHeld (onBus .address (bitsOf 0x46)) = true ∧ sdaHeld (onBus .address (bitsOf 0x58)) = false
    ∧ (wired (.scl false) (onBus .address (bitsOf 0x58))).bus = .passive := by decide +kernel

/-- R126: 0x10 is sent most significant bit first; a byte not acknowledged is transferred and ends the sending. -/
theorem test_sentBits :
    (∀ k : Fin 8, sdaHeld (onBus (.send (List.replicate 12 0x10) .nothing 3 true) (List.replicate k.val true)) = (k != 3))
    ∧ (wired (.scl false) (onBus (.send (List.replicate 12 0x10) .nothing 11 true) (bitsOf 0x10))).bus
        = .send (List.replicate 12 0x10) .nothing 12 false := by decide +kernel

/-- R128: SCL low in RECEIVE starts the stall timer, SCL high stops it, and 25 ms later it abandons the write. -/
theorem test_stall :
    let s := wired (.scl false) { onBus (.receive 3 [0x07]) [] with clock := none }
    s.stallTimer = some 25 ∧ eventsDue (atMs 24 s) = [] ∧ (wired (.scl true) s).stallTimer = none
    ∧ eventsDue (atMs 25 s) = [.stallTimerExpiry 25]
    ∧ (after (.stallTimerExpiry 25) (atMs 25 s)).bus = .passive
    ∧ flagSet (after (.stallTimerExpiry 25) (atMs 25 s)) .busStall = true := by decide +kernel

/-- R163, R177: the eighth bit captures ID; a write frame to ARG0 is taken at the rise of CSn, and not one begun in reset. -/
theorem test_frames :
    let low := { board .free .idle with pins := { idlePins with csn := false } }
    let s := wired (.sck true) { low with frame := .command (bitsOf 0x80 |>.take 7) }
    let w := { low with frame := .data 0x0A 0 (bitsOf 0x12 ++ bitsOf 0x34) }
    s.frame = .data 0x80 0x4B32 [] ∧ sdo s = some false ∧ sdo (wired (.sck false) s) = some false
    ∧ sdo (wired (.sck false) { s with frame := .data 0x80 0x4B32 [true] }) = some true
    ∧ (wired (.csn true) w).arg0 = 0x1234 ∧ sdo (wired (.csn true) w) = none
    ∧ (wired (.csn true) (after (.deviceReset 2) w)).arg0 = 0 := by decide +kernel

/-- R177: a CSn fall while RSTn is low begins no frame, SDO stays high-impedance, no row is taken, and the frame is not taken after
the rise of RSTn, which latches the straps; with CSn high at that rise the next fall begins a frame. -/
theorem test_resetHeld :
    let s := wired .rstnLow (board .active .on)
    let t := wired (.csn false) s
    let u := wired (.rstnHigh 5) t
    s.inReset = true ∧ (s.entry 0).state = .free ∧ t.pins.csn = false ∧ sdo t = none ∧ after (.registerWrite 0x0A 7) t = t
    ∧ after (.claim 3 (sealed .claim [5, 3, 0, 100, 0, 40, 0, 60]) .stop) t = t ∧ after (.presenceSample 3 true) t = t
    ∧ u.inReset = false ∧ u.straps = 5 ∧ u.frame = .missed 0
    ∧ (wired (.csn false) (wired (.rstnHigh 5) (wired (.csn true) t))).frame = .command [] := by decide +kernel

/-! ## Invariant states -/

theorem invariant_of {s : State} (h1 : EntriesOk s) (h2 : ListsOk s) (h3 : SlotLimits s) (h4 : ConfigOk s) (h5 : SupplyOk s)
    (h6 : CapacityOk s) (h7 : BudgetOk s) (h8 : SlotsOk s) (h9 : NoticesOk s) (h10 : TimersOk s) (h11 : PortsOk s)
    (h12 : s.inReset = false) :
    Machine.Inv s :=
  ⟨h1, h2, h3, h4, h5, h6, h7, h8, h9, h10, h11, fun h => absurd h (by simp [h12])⟩

/-- Ports at rest are in order. -/
theorem ports_of {s : State} (h : (s.bits == [] && s.clock == none && s.stallTimer == none && s.frame == .closed && s.pins.csn
    && (s.bus == .idle || s.bus == .address)) = true) : PortsOk s := by
  simp only [Bool.and_eq_true, beq_iff_eq, Bool.or_eq_true] at h
  obtain ⟨⟨⟨⟨⟨h1, h2⟩, h3⟩, h4⟩, h5⟩, h6⟩ := h
  have ht : takesPart s.bus = false := by rcases h6 with h | h <;> rw [h] <;> rfl
  refine ⟨?_, by simp [h1], by simp [ht], by simp [h2], by simp [h3, ht], by simp [h4, h5], by simp [h4]⟩
  unfold BusHolds
  rcases h6 with h | h <;> simp [h, h1]

/-- The fields of every entry are decided. -/
def decideFits (e : Entry) (x : Notice) : Decidable (noticeFits e x) := by
  unfold noticeFits; split <;> infer_instance

/-- The outboxes are in order, as a test. -/
def noticesB (s : State) : Bool :=
  allSlots.all (fun n =>
    decide ((s.outbox n).notices.Pairwise (fun x y => x.index ≠ y.index ∧ x.id ≠ y.id))
    && (s.outbox n).notices.all (fun x =>
      decide ((s.entry x.index).slot = n ∧ x.gen = (s.entry x.index).gen ∧ x.tag = (s.entry x.index).tag ∧ x.id < s.nextItem)
      && @decide (noticeFits (s.entry x.index) x) (decideFits _ _))
    && decide (∀ r ∈ (s.outbox n).reply, r.id < s.nextItem))
  && allIdx.all fun i => (s.entry i).state != .retired || noticePending s (s.entry i).slot i .closed

theorem notices_of {s : State} (h : noticesB s = true) : NoticesOk s := by
  simp only [noticesB, Bool.and_eq_true, List.all_eq_true, decide_eq_true_eq, Bool.or_eq_true, bne_iff_ne] at h
  refine ⟨fun n => ?_, fun i hi => ?_⟩
  · obtain ⟨⟨h1, h2⟩, h3⟩ := h.1 n (List.mem_finRange n)
    exact ⟨h1, fun x hx => ⟨(h2 x hx).1.1, (h2 x hx).1.2.1, (h2 x hx).1.2.2.1, (h2 x hx).1.2.2.2, (h2 x hx).2⟩, h3⟩
  · exact (h.2 i (List.mem_finRange i)).resolve_left (fun hh => hh hi)

theorem test_invariantInOperating : Machine.Inv (atMs 7 (board .reducing .on)) :=
  invariant_of (by unfold EntriesOk EntryOk; decide +kernel) (by unfold ListsOk; decide +kernel)
    (by unfold SlotLimits; decide +kernel) (by unfold ConfigOk; decide +kernel) (by unfold SupplyOk; decide +kernel)
    (by unfold CapacityOk; decide +kernel) (by unfold BudgetOk; decide +kernel)
    (by unfold SlotsOk SlotOk; decide +kernel) (notices_of (by decide +kernel))
    (by unfold TimersOk EntryAhead Ahead; decide +kernel) (ports_of (by decide +kernel)) rfl

theorem test_invariantAtTheHoldLimit : Machine.Inv (atMs 7 (held .revoking .suspended)) :=
  invariant_of (by unfold EntriesOk EntryOk; decide +kernel) (by unfold ListsOk; decide +kernel)
    (by unfold SlotLimits; decide +kernel) (by unfold ConfigOk; decide +kernel) (by unfold SupplyOk; decide +kernel)
    (by unfold CapacityOk; decide +kernel) (by unfold BudgetOk; decide +kernel)
    (by unfold SlotsOk SlotOk; decide +kernel) (notices_of (by decide +kernel))
    (by unfold TimersOk EntryAhead Ahead; decide +kernel) (ports_of (by decide +kernel)) rfl

/-- Device reset with a rail in band 0, at the instant its candidate qualifies. -/
def firstFall : State := atMs 500 { State.reset with candidate := some 0, qualTimer := some 500 }

theorem test_invariantAtTheFirstFall : Machine.Inv firstFall :=
  invariant_of (by unfold EntriesOk EntryOk; decide +kernel) (by unfold ListsOk; decide +kernel)
    (by unfold SlotLimits; decide +kernel) (by unfold ConfigOk; decide +kernel) (by unfold SupplyOk; decide +kernel)
    (by unfold CapacityOk; decide +kernel) (by unfold BudgetOk; decide +kernel)
    (by unfold SlotsOk SlotOk; decide +kernel) (notices_of (by decide +kernel))
    (by unfold TimersOk EntryAhead Ahead; decide +kernel) (ports_of (by decide +kernel)) rfl

/-! ## The step and time -/

/-- Out of device reset, and in it. -/
theorem test_meetsReset :
    (∀ (st : EntryState) (r : SlotState), (board st r).inReset = false ∧ (held st r).inReset = false)
    ∧ (let s := wired .rstnLow (board .active .on)
       s.inReset = true ∧ ResetOk s) :=
  ⟨fun _ _ => ⟨rfl, rfl⟩, rfl, fun _ => rfl⟩

/-- Events due: a grace at its tick, a lease and its warning at theirs, a turn-on when the spacing has passed and not between two
ticks; the entries are in order. -/
theorem test_meetsEventsDue :
    eventsDue (atMs 6 (board .reducing .on)) = [] ∧ eventsDue (atMs 7 (board .reducing .on)) = [.reduceGraceExpiry 0]
    ∧ eventsDue (atMs 60000 (board .enabling .idle)) = [.leaseExpiry 0, .warningPoint 0]
    ∧ eventsDue (atMs 49999 (board .enabling .idle)) = [] ∧ eventsDue (atMs 50000 (board .enabling .idle)) = [.warningPoint 0]
    ∧ eventsDue (atMs 19 { board .enabling .queued with lastOn := some 0 }) = []
    ∧ eventsDue (atMs 20 { board .enabling .queued with lastOn := some 0 }) = [.turnOn]
    ∧ eventsDue { board .enabling .queued with now := 41, lastOn := some 0 } = []
    ∧ EntriesOk (board .enabling .queued) := by
  unfold EntriesOk EntryOk; decide +kernel

/-- Idle steps: nothing due after reset; a pin change that waits; the offer window of the board due at tick 7. -/
theorem test_meetsIdleStep :
    (State.reset.pending = [] ∧ State.reset.wires = [] ∧ eventsDue State.reset = [])
    ∧ (let s := { State.reset with wires := [.sda false] }
       s.pending = [] ∧ s.wires = .sda false :: [])
    ∧ (let s := atMs 7 (board .offered .idle)
       s.pending = [] ∧ s.wires = [] ∧ eventsDue s ≠ []) := by decide +kernel

/-- A timer set for tick 7 is not due just before it; a lease of 60 s has 1 ms to run, and its warning point is 1 ms away; a
turn-on waits out the last millisecond of the spacing, and the tick. -/
theorem test_meetsEventsNotDue :
    (let s := { board .offered .tripped with now := 13, qualTimer := some 7, holdTimer := some 7, stallTimer := some 7 }
     due s (s.entry 0).deadline = false ∧ due s (s.slotRec 3).cooldown = false ∧ due s (s.slotRec 3).fault = false
     ∧ due s s.qualTimer = false ∧ due s s.holdTimer = false ∧ due s s.stallTimer = false ∧ (s.entry 0).period = none)
    ∧ (let s := board .active .on
       (s.entry 0).period = some ⟨0, 10, false⟩ ∧ (s.entry 0).lease ≠ 0
       ∧ ticks (atMs 59999 s) < 0 + 1000 * (s.entry 0).lease ∧ ticks (atMs 49999 s) < 0 + 1000 * ((s.entry 0).lease - 10))
    ∧ (let s := atMs 19 { board .enabling .queued with lastOn := some 0 }
       ∃ t ∈ s.lastOn, ticks s < t + duration s .inrush)
    ∧ atTick { board .enabling .queued with now := 1 } = false := by decide +kernel

/-! ## Module requests -/

/-- The boards stand after a START: each is the state its own START leaves; and a START can end a read, here one that frees the
entry whose CLOSED notice it delivers. -/
theorem test_meetsStarted :
    (∀ (st : EntryState) (r : SlotState), startSeen (board st r) = board st r ∧ startSeen (held st r) = held st r)
    ∧ (let s := { board .retired .idle with bus := .send (List.replicate 12 0) (.notice 3 0) 12 true }
       (s.entry 0).state = .retired ∧ ((startSeen s).entry 0).state = .free) :=
  ⟨fun _ _ => ⟨rfl, rfl⟩, by decide +kernel⟩

/-- One message for each step of the validation order at which it fails first. -/
theorem test_meetsMessagesRefused :
    (let s := board .free .idle
     windowValid s = true ∧ checkOk s.straps 3 (kindByte .query :: [5, 0]) = false
     ∧ (let m := kindByte .query :: sealed .query [5, 5]
        checkOk s.straps 3 m = true ∧ m.length ≠ kindLength .query)
     ∧ (let m := kindByte .query :: sealed .query [16]
        checkOk s.straps 3 m = true ∧ m.length = kindLength .query ∧ fieldsInRange .query m = false)
     ∧ (let m := kindByte .query :: sealed .query [15]
        let t := s.setSlot 3 { slotIn .empty with seated := false }
        checkOk t.straps 3 m = true ∧ m.length = kindLength .query ∧ fieldsInRange .query m = true
        ∧ (t.slotRec 3).seated = false)
     ∧ (let m := kindByte .claim :: sealed .claim [15, 3, 3, 255, 3, 255, 0, 0]
        checkOk s.straps 3 m = true ∧ m.length = kindLength .claim ∧ fieldsInRange .claim m = true
        ∧ ((board .free .blocked).slotRec 3).state = .blocked ∧ ((board .free .blocked).slotRec 3).seated = true
        ∧ ((board .free .tripped).slotRec 3).state = .tripped ∧ ((board .free .tripped).slotRec 3).seated = true)
     ∧ (let m := [0x08, crc8 [0x46, 0x08]]
        checkOk s.straps 3 m = true ∧ kindOf 0x08 = none)) := by decide +kernel

/-- Handles: an index of 32, a FREE entry, another generation, and another slot's entry. -/
theorem test_meetsHandleRefusals :
    (∀ p ∈ [([32, 0] : List Byte), [1, 0], [0, 1]],
      Passes (board .active .on) .release 3 (kindByte .release :: sealed .release p)
      ∧ ∀ i : Idx, (byteAt (kindByte .release :: sealed .release p) 1).toNat = i.val →
          ((board .active .on).entry i).state = .free
          ∨ ((board .active .on).entry i).gen ≠ byteAt (kindByte .release :: sealed .release p) 2)
    ∧ (let s := (board .active .on).setEntry 0 { entryIn .active with slot := 4 }
       let m := kindByte .release :: sealed .release [0, 0]
       Passes s .release 3 m ∧ (byteAt m 1).toNat = (0 : Idx).val ∧ (s.entry 0).state ≠ .free
       ∧ (s.entry 0).gen = byteAt m 2 ∧ (s.entry 0).slot ≠ 3) := by
  refine ⟨fun p hp => ?_, passes (by decide +kernel), by decide +kernel⟩
  fin_cases hp <;> exact ⟨passes (by decide +kernel), by decide +kernel⟩

/-- A request in a state its kind does not take, for each of the four kinds and each reading of the extra field. -/
theorem test_meetsWrongState :
    (∀ s ∈ [board .waiting .idle, board .enabling .queued, board .revoking .on, board .retired .idle],
      Reaches .confirm [0, 0] s ∧ (s.entry 0).state ≠ .offered)
    ∧ (∀ s ∈ [board .offered .idle, board .reducing .on, board .revoking .on, board .retired .idle],
      Reaches .adjust [0, 0, 0, 1, 0, 1] s)
    ∧ (∀ s ∈ [board .active .on], Reaches .comply [0, 0, 0, 1] s)
    ∧ (∀ s ∈ [(board .active .on).setEntry 0 { entryIn .active with lease := 0, period := none }, board .offered .idle],
      Reaches .renew [0, 0] s ∧ (countsLease (s.entry 0).state = false ∨ (s.entry 0).lease = 0)) := by
  refine ⟨fun s hs => ⟨reaches_all (l := [_, _, _, _]) (by decide +kernel) s hs, ?_⟩, reaches_all (by decide +kernel),
    reaches_all (by decide +kernel), fun s hs => ⟨reaches_all (l := [_, _]) (by decide +kernel) s hs, ?_⟩⟩
  all_goals fin_cases hs <;> decide +kernel

/-- A CLAIM of tag 5, class 3, requested 100, floor 40. -/
def claimFive : List Byte := sealed .claim [5, 3, 0, 100, 0, 40, 0, 60]

/-- A CLAIM of tag 5, class 2, with the requested level and floor given. -/
def claimOf (requested floor : Nat) : List Byte :=
  sealed .claim [5, 2, hiByte requested, loByte requested, hiByte floor, loByte floor, 0, 60]

/-- The four refusals of Table 2-1: the tag in use, four entries in the slot, a full table, sixteen waiting ahead. -/
theorem test_meetsClaimRefusals :
    (let s := board .active .on
     Passes s .claim 3 (kindByte .claim :: claimFive) ∧ HoldsTag s 3 5)
    ∧ (let s := crowd 4 3 .active (board .free .on)
       Passes s .claim 3 (kindByte .claim :: claimFive) ∧ ¬ HoldsTag s 3 5 ∧ 4 ≤ countWhere s (ofSlot 3))
    ∧ (let s := crowd 32 4 .active (board .free .idle)
       Passes s .claim 3 (kindByte .claim :: claimFive) ∧ ¬ HoldsTag s 3 5 ∧ countWhere s (ofSlot 3) < 4
       ∧ ∀ i : Idx, (s.entry i).state ≠ .free)
    ∧ (let s := crowd 16 4 .waiting (board .free .idle)
       Passes s .claim 3 (kindByte .claim :: claimOf 100 40) ∧ ¬ HoldsTag s 3 5 ∧ countWhere s (ofSlot 3) < 4
       ∧ (∃ i : Idx, (s.entry i).state = .free) ∧ ¬ WouldOffer s 2 40
       ∧ 16 ≤ countWhere s (fun e => e.state == .waiting)) := by
  refine ⟨⟨passes (by decide +kernel), ?_⟩, ⟨passes (by decide +kernel), ?_⟩, ⟨passes (by decide +kernel), ?_⟩,
    ⟨passes (by decide +kernel), ?_⟩⟩
  all_goals (try unfold HoldsTag); (try unfold WouldOffer); decide +kernel

/-- A CLAIM whose floor is the headroom is offered, one with a floor of one more waits. -/
theorem test_meetsClaimRecorded :
    (let s := board .free .idle
     ListsOk s ∧ ¬ HoldsTag s 3 5 ∧ countWhere s (ofSlot 3) < 4 ∧ LowestFree s 0)
    ∧ (let s := board .free .idle
       Passes s .claim 3 (kindByte .claim :: claimOf 300 300) ∧ WouldOffer s 2 300)
    ∧ (let s := board .free .idle
       Passes s .claim 3 (kindByte .claim :: claimOf 301 301) ∧ ¬ WouldOffer s 2 301
       ∧ countWhere s (fun e => e.state == .waiting) < 16) := by
  refine ⟨?_, ⟨passes (by decide +kernel), ?_⟩, ⟨passes (by decide +kernel), ?_⟩⟩
  · unfold ListsOk HoldsTag LowestFree; decide +kernel
  all_goals unfold WouldOffer; decide +kernel

/-- A CONFIRM with the slot ON and the held level at and below the requested one, IDLE in OPERATING and in HOLD, QUEUED and
SUSPENDED. -/
theorem test_meetsConfirm :
    (∀ s ∈ [board .offered .on, (board .offered .on).setEntry 0 { entryIn .offered with held := 99 },
        board .offered .idle, held .offered .idle, board .offered .queued, held .offered .suspended],
      Reaches .confirm [0, 0] s)
    ∧ ((board .offered .idle).inrush.Pairwise fun m k =>
        ((board .offered .idle).slotRec k).key.getD 0 ≤ ((board .offered .idle).slotRec m).key.getD 0) :=
  ⟨reaches_all (by decide +kernel), by decide +kernel⟩

/-- An ADJUST of a WAITING entry; of an ACTIVE one to 99, to its own level, to the whole headroom and one above it. -/
theorem test_meetsAdjust :
    (Reaches .adjust [0, 0, 0, 50, 0, 50] (board .waiting .idle) ∧ EntryOk ((board .waiting .idle).entry 0))
    ∧ (let s := board .active .on
       Reaches .adjust [0, 0, 0, 99, 0, 40] s ∧ 99 < (s.entry 0).held
       ∧ Reaches .adjust [0, 0, 0, 100, 0, 100] s ∧ (s.entry 0).held ≤ 100
       ∧ Reaches .adjust [0, 0, 1, 44, 1, 44] s ∧ 300 ≤ (s.entry 0).held + headroom s
       ∧ Reaches .adjust [0, 0, 1, 45, 1, 45] s ∧ (s.entry 0).held + headroom s < 301) := by
  refine ⟨⟨reaches_of (by decide +kernel), ?_⟩, reaches_of (by decide +kernel), by decide +kernel,
    reaches_of (by decide +kernel), by decide +kernel, reaches_of (by decide +kernel), by decide +kernel,
    reaches_of (by decide +kernel), by decide +kernel⟩
  unfold EntryOk; decide +kernel

/-- A COMPLY at the target and one above it. -/
theorem test_meetsComply :
    (let s := board .reducing .on
     Reaches .comply [0, 0, 0, 60] s ∧ Reaches .comply [0, 0, 0, 61] s ∧ (s.entry 0).state = .reducing
     ∧ (s.entry 0).target = some 60 ∧ complyLevel (kindByte .comply :: sealed .comply [0, 0, 0, 60]) = 60
     ∧ complyLevel (kindByte .comply :: sealed .comply [0, 0, 0, 61]) = 61) :=
  ⟨reaches_of (by decide +kernel), reaches_of (by decide +kernel), by decide +kernel⟩

/-- A RENEW in the four states that count a lease, and a RELEASE in all eight states an entry can have. -/
theorem test_meetsRenewAndRelease :
    (∀ s ∈ [board .enabling .queued, board .active .on, board .reduced .on, board .reducing .on],
      Reaches .renew [0, 0] s ∧ countsLease (s.entry 0).state = true ∧ (s.entry 0).lease ≠ 0)
    ∧ (∀ s ∈ [board .waiting .idle, board .offered .idle, board .enabling .queued, board .active .on, board .reduced .on,
        board .reducing .on, board .revoking .on, board .retired .blocked], Reaches .release [0, 0] s) := by
  refine ⟨fun s hs => ⟨reaches_all (l := [_, _, _, _]) (by decide +kernel) s hs, ?_⟩, reaches_all (by decide +kernel)⟩
  fin_cases hs <;> decide +kernel

/-- A QUERY of a tag the slot does not hold, and of one it holds, in a state of each reading of the extra field. -/
theorem test_meetsQuery :
    (Passes (board .active .on) .query 3 (kindByte .query :: sealed .query [15]) ∧ ¬ HoldsTag (board .active .on) 3 15)
    ∧ (∀ s ∈ [board .waiting .idle, board .offered .idle, board .active .on, board .retired .idle],
      Passes s .query 3 (kindByte .query :: sealed .query [5]) ∧ SlotLimits s ∧ (s.entry 0).state ≠ .free
      ∧ (s.entry 0).slot = 3 ∧ (s.entry 0).tag = 5) := by
  refine ⟨⟨passes (by decide +kernel), ?_⟩, fun s hs => ?_⟩
  · unfold HoldsTag; decide +kernel
  · fin_cases hs <;> exact ⟨passes (by decide +kernel), by unfold SlotLimits; decide +kernel⟩

/-! ## The module bus -/

/-- Windows at the bounds of the strap values, the states of the interface, and levels and bits at the bounds of the clauses. -/
theorem test_meetsInterface :
    windowValid (State.resetWith 0) = false ∧ windowValid (State.resetWith 1) = true
    ∧ windowValid (State.resetWith 6) = true ∧ windowValid (State.resetWith 7) = false
    ∧ State.reset.bus = .idle ∧ takesPart (.send [] .nothing 0 true) = true
    ∧ (let s := onBus (.receive 3 [0x07]) []
       s.bus = .receive 3 (0x07 :: []) ∧ s.bits = [] ∧ s.pins.scl = true ∧ s.clock = some true
       ∧ sdaLine s = true ∧ sdaLine { s with pins := { s.pins with sda := false } } = false)
    ∧ (let s := { onBus .passive [] with pins := { idlePins with sda := false } }
       sdaLine s = false ∧ sdaLine { s with pins := { s.pins with sda := true } } = true)
    ∧ (bitsOf 0x46).length = 8 ∧ addressed 2 (byteOf (bitsOf 0x46)) = some (.write 3)
    ∧ addressed 2 (byteOf (bitsOf 0x47)) = some (.read (.slot 3)) ∧ (List.replicate 15 (0 : Byte)).length < 16
    ∧ (List.replicate 12 (0x10 : Byte))[11]? = some 0x10
    ∧ (let s := atMs 25 { onBus (.overrun 3) [] with stallTimer := some 25 }
       takesPart s.bus = true ∧ due s s.stallTimer = true) := by decide +kernel

/-- Address bytes at the bounds of the window of k = 6, and straps of each kind. -/
theorem test_meetsAddresses :
    (6 : BitVec 3) ≠ 0 ∧ (6 : BitVec 3) ≠ 7 ∧ (0xC0 : Byte).toNat = 2 * (16 * (6 : BitVec 3).toNat + (0 : Slot).val)
    ∧ (0xD7 : Byte).toNat = 2 * (16 * (6 : BitVec 3).toNat + (11 : Slot).val) + 1
    ∧ (0xD9 : Byte).toNat = 2 * (16 * (6 : BitVec 3).toNat + 12) + 1
    ∧ (0xBF : Byte).toNat < 2 * (16 * (6 : BitVec 3).toNat) ∧ (0xD8 : Byte).toNat = 2 * (16 * (6 : BitVec 3).toNat + 12)
    ∧ 2 * (16 * (6 : BitVec 3).toNat + 13) ≤ (0xDA : Byte).toNat
    ∧ startSeen (State.resetWith 0) = { State.resetWith 0 with bus := .address } := by
  refine ⟨?_, ?_, ?_, ?_, ?_, ?_, ?_, ?_, rfl⟩ <;> decide

/-- A reply, a head notice of each reading of Table 6-3, and empty outboxes, with the supply in and out of UNQUALIFIED. -/
theorem test_meetsStaging :
    (let s := placeReply 3 1 .accepted none 0 .free 0 0 (board .free .idle)
     ∃ r, (s.outbox 3).reply = some r)
    ∧ (∀ p ∈ [(NoticeKind.offer, board .offered .idle), (.reduce, board .reducing .on), (.revoke, board .revoking .on),
          (.closed, board .retired .idle), (.leaseWarn, board .active .on), (.recall, board .waiting .idle),
          (.restore, board .reduced .on)],
        let s := queueNotice p.1 0 0 p.2
        (s.outbox 3).reply = none ∧ (s.outbox 3).notices.map Notice.kind = [p.1])
    ∧ ((board .free .idle).outbox 3).reply = none ∧ ((board .free .idle).outbox 3).notices = []
    ∧ windowValid (board .free .idle) = true
    ∧ (State.reset.supply = .unqualified ∧ (board .free .idle).qualified = some 3) := by
  refine ⟨⟨_, rfl⟩, ?_⟩
  decide +kernel

/-- A staged reply and a staged CLOSED notice that are still there, and each replaced; reads of 11 and 12 bytes, with and without
a byte not acknowledged; and the interface with no read in flight. -/
theorem test_meetsDelivery :
    (let s := placeReply 3 1 .accepted none 0 .free 0 0 (board .free .idle)
     let t := placeReply 3 1 .accepted none 0 .free 0 0 s
     ((after (.readStaging (.slot 3)) s).bus matches .send _ (.reply 3 1) 0 true)
     ∧ (s.outbox 3).reply.map Reply.id = some 1 ∧ (t.outbox 3).reply.map Reply.id = some 2)
    ∧ (let s := board .retired .idle
       let t := queueNotice .closed 0 0 s
       ((after (.readStaging (.slot 3)) s).bus matches .send _ (.notice 3 0) 0 true)
       ∧ (s.outbox 3).notices.map Notice.id = [0] ∧ (t.outbox 3).notices.map Notice.id = [1])
    ∧ ((∀ a ∈ List.replicate 11 true, a = true) ∧ 11 = min 12 (0 + (List.replicate 11 true).length))
    ∧ (List.replicate 11 true ++ [false] = List.replicate 11 true ++ false :: []
        ∧ 12 = min 12 (0 + (List.replicate 11 true).length + 1))
    ∧ (board .free .idle).bus = .address
    ∧ OutboxOk (board .retired .idle) 3 := by
  refine ⟨by decide +kernel, by decide +kernel, by decide +kernel, by decide +kernel, rfl, (notices_of ?_).1 3⟩
  decide +kernel

/-! ## The Supply Monitor -/

/-- Codes on both sides of each threshold, with the band in force, the candidate's band and another. -/
theorem test_meetsRailSample :
    (let s := board .free .idle
     activeItem s .t1 = 512 ∧ activeItem s .t2 = 640 ∧ activeItem s .t3 = 768 ∧ s.supply ≠ .unqualified
     ∧ s.qualified = some 3 ∧ s.candidate = none
     ∧ [511, 512, 639, 640, 767, 768, 1023].map (fun c => bandOf s (BitVec.ofNat 10 c)) = [0, 1, 1, 2, 2, 3, 3])
    ∧ (firstFall.supply = .unqualified ∧ firstFall.qualified = none ∧ firstFall.candidate = some 0) := by decide +kernel

/-- The candidates 1, 2, 3 due in OPERATING and in HOLD, and the candidate 0 due in OPERATING. -/
theorem test_meetsQualification :
    (∀ b : Band, ∀ s ∈ [board .active .on, held .active .suspended],
      let t := atMs 7 { s with candidate := some b, qualTimer := some 7 }
      t.candidate = some b ∧ due t t.qualTimer = true)
    ∧ (board .active .on).supply = .operating ∧ (held .active .suspended).supply ≠ .operating := by decide +kernel

/-- The hold limit reached, and band 0 at the first qualification; both states satisfy the invariant (above). -/
theorem test_meetsSupplyLoss :
    (let s := atMs 7 (held .revoking .suspended)
     s.supply = .hold ∧ due s s.holdTimer = true)
    ∧ (firstFall.supply = .unqualified ∧ firstFall.candidate = some 0 ∧ due firstFall firstFall.qualTimer = true) := by
  decide +kernel

/-- A SUSPENDED slot with a need and one without. -/
theorem test_meetsRestart :
    (((held .active .suspended).slotRec 3).state = .suspended ∧ hasNeed (held .active .suspended) 3 = true)
    ∧ (((held .waiting .suspended).slotRec 3).state = .suspended ∧ hasNeed (held .waiting .suspended) 3 = false) := by
  decide +kernel

/-! ## Slot Power Control -/

/-- Presence due on a seated slot, on a BLOCKED one and on an empty one. -/
theorem test_meetsPresence :
    (∀ r ∈ [SlotState.on, .blocked],
      let s := atMs 50 ((board .free r).setSlot 3 { slotIn r with presence := some 50 })
      due s (s.slotRec 3).presence = true ∧ (s.slotRec 3).seated = true)
    ∧ (let s := atMs 50 (State.reset.setSlot 3 { emptySlot with presence := some 50 })
       due s (s.slotRec 3).presence = true ∧ (s.slotRec 3).seated = false) := by decide +kernel

/-- The samples of an IDLE, an ON and a blanked slot, with the timer stopped and running. -/
theorem test_meetsSamples :
    (let s := board .free .on
     true = (s.slotRec 3).seated ∧ false ≠ (s.slotRec 3).seated ∧ (s.slotRec 3).presence = none
     ∧ (s.slotRec 3).state = .on ∧ (s.slotRec 3).blanking = none ∧ (s.slotRec 3).fault = none)
    ∧ (let s := (board .free .on).setSlot 3 { slotIn .on with presence := some 50, fault := some 2 }
       (s.slotRec 3).presence ≠ none ∧ (s.slotRec 3).fault ≠ none)
    ∧ ((board .free .idle).slotRec 3).state ≠ .on := by decide +kernel

/-- A turn-on exactly at the end of the spacing. -/
theorem test_meetsTurnOn :
    (let s := atMs 20 { board .enabling .queued with lastOn := some 0 }
     ConfigOk s ∧ s.inrush = 3 :: [] ∧ s.supply = .operating ∧ atTick s = true
     ∧ ∀ t, s.lastOn = some t → t + activeItem s .inrush ≤ ticks s) := by
  refine ⟨by unfold ConfigOk; decide +kernel, by decide +kernel, by decide +kernel, by decide +kernel, fun t ht => ?_⟩
  obtain rfl := Option.some.inj (ht : some 0 = some t)
  decide +kernel

/-- Trips at counts 1 and 2 under a trip limit of 3, and the three slot timers due. -/
theorem test_meetsTrip :
    (∀ k : Fin 3,
      let s := atMs 7 ((board .active .on).setSlot 3 { slotIn .on with fault := some 7, blanking := some 7, stable := some 7, trips := k.val })
      (s.slotRec 3).state = .on ∧ due s (s.slotRec 3).fault = true ∧ due s (s.slotRec 3).blanking = true
      ∧ due s (s.slotRec 3).stable = true ∧ (activeItem s .triplim ≤ (s.slotRec 3).trips + 1 ↔ k = 2))
    ∧ (let s := atMs 7 (board .free .tripped)
       (s.slotRec 3).state = .tripped ∧ due s (s.slotRec 3).cooldown = true) := by decide +kernel

/-! ## Expiries of an entry -/

/-- The deadline of each of the four states reached; a REVOKING entry alone and with another live entry. -/
theorem test_meetsDeadlines :
    (∀ p ∈ [(EntryState.offered, SlotState.idle), (.reducing, .on), (.revoking, .on), (.retired, .idle)],
      let s := atMs 7 (board p.1 p.2)
      due s (s.entry 0).deadline = true ∧ (s.entry 0).state = p.1)
    ∧ (let s := atMs 7 (board .revoking .on)
       ∀ j : Idx, j ≠ 0 → (s.entry j).slot = 3 → isLive (s.entry j).state = false)
    ∧ (let s := atMs 7 ((board .revoking .on).setEntry 1 { entryIn .active with tag := 6 })
       ∃ j : Idx, j ≠ 0 ∧ (s.entry j).slot = 3 ∧ isLive (s.entry j).state = true) := by decide +kernel

/-- A lease of 60 s with its warning point 10 s: the warning at 50 s, the expiry at 60 s, and no warning for a lease of 10 s. -/
theorem test_meetsLease :
    (∀ p ∈ [(EntryState.enabling, SlotState.queued), (.active, .on), (.reducing, .on)],
      let s := board p.1 p.2
      (s.entry 0).period = some ⟨0, 10, false⟩ ∧ (s.entry 0).lease = 60
      ∧ 0 + 1000 * 60 ≤ ticks (atMs 60000 s) ∧ 0 + 1000 * (60 - 10) ≤ ticks (atMs 50000 s)
      ∧ countsLease (s.entry 0).state = true)
    ∧ (let s := queueNotice .reduce 0 60 (board .reducing .on)
       ∃ x ∈ (s.outbox (s.entry 0).slot).notices, x.index = 0 ∧ x.kind = .reduce)
    ∧ (let s := (board .active .on).setEntry 0 { entryIn .active with lease := 10 }
       (s.entry 0).lease ≤ 10) := by decide +kernel

/-! ## The Board Controller Port -/

/-- The arguments at the bounds of their ranges and one above. -/
theorem test_meetsArguments :
    (let s := { State.reset with arg0 := 31, arg1 := 255 }
     s.arg0.toNat = (31 : Idx).val ∧ s.arg1.toNat ≤ 255)
    ∧ (let s := { State.reset with arg0 := 11, arg1 := 15 }
       s.arg0.toNat = (11 : Slot).val ∧ s.arg1.toNat = (15 : Tag).val)
    ∧ (let s := { State.reset with arg0 := 32, arg1 := 256 }
       31 < s.arg0.toNat ∧ 255 < s.arg1.toNat ∧ 11 < s.arg0.toNat ∧ 15 < s.arg1.toNat)
    ∧ (let s := { board .active .on with arg0 := 3, arg1 := 5 }
       SlotLimits s ∧ (s.entry 0).state ≠ .free ∧ (s.entry 0).slot = 3 ∧ (s.entry 0).tag = 5 ∧ ¬ HoldsTag s 4 5) := by
  unfold SlotLimits HoldsTag; decide +kernel

/-- RETIRE of a matching handle finds an entry of each state, and one of another generation. -/
theorem test_meetsRetire :
    (∀ st ∈ [EntryState.waiting, .offered, .enabling, .active, .reduced, .reducing, .revoking, .retired],
      let s := { board st .idle with arg0 := 0, arg1 := 0 }
      (s.entry 0).gen.toNat = s.arg1.toNat ∧ (s.entry 0).state = st)
    ∧ ¬ ((board .active .on).entry 0).gen.toNat = ({ board .active .on with arg1 := 255 } : State).arg1.toNat := by
  decide +kernel

/-- PURGE finds the entries in order; BLOCK and UNBLOCK find a slot that is and one that is not BLOCKED. -/
theorem test_meetsPurgeAndBlock :
    EntriesOk (board .active .on) ∧ ((board .free .blocked).slotRec 3).state = .blocked
    ∧ ((board .free .tripped).slotRec 3).state ≠ .blocked := by
  unfold EntriesOk EntryOk; decide +kernel

/-- A staged set that fails first at T2, a sound one outside OPERATING, and sound ones in OPERATING in each band. -/
theorem test_meetsApply :
    (let s := { State.reset with staged := State.reset.staged.set 1 512 }
     (s.staged[itemIndex .t2]).toNat ≤ (s.staged[itemIndex .t1]).toNat ∧ firstFailing s = some .t2)
    ∧ (firstFailing State.reset = none ∧ State.reset.supply ≠ .operating)
    ∧ (∀ b ∈ [(1 : Band), 2, 3],
        let s := { board .active .on with qualified := some b }
        firstFailing s = none ∧ s.supply = .operating ∧ s.qualified = some b) := by decide +kernel

/-- The register numbers at the bounds of the ranges of Table 10-1, and frames at each stage: the invariant of the reads is that
of the boards above. -/
theorem test_meetsRegisterWrites :
    (0x40 : BitVec 7).toNat = 0x40 + (0 : Fin 21).val ∧ (0x54 : BitVec 7).toNat = 0x40 + (20 : Fin 21).val
    ∧ (0x06 : BitVec 7).toNat < 0x07 ∧ 0x54 < (0x55 : BitVec 7).toNat ∧ 0x0C < (0x0D : BitVec 7).toNat
    ∧ 0x74 < (0x75 : BitVec 7).toNat
    ∧ State.reset.pins.csn = true ∧ State.reset.pins.sck = false ∧ State.reset.frame = .closed
    ∧ ((bitsOf 0x0A).take 7).length = 7 ∧ ((bitsOf 0x0A).take 6).length < 7
    ∧ (spiCommand (8 + 16) 0x0A 0x1234).isSome = true ∧ spiCommand (8 + 15) 0x0A 0x1234 = none
    ∧ spiCommand (8 + 16) 0x8A 0x1234 = none
    ∧ (let s := after (.deviceReset 2) { State.reset with pins := { idlePins with csn := false } }
       s.frame = .missed 0 ∧ s.pins.csn = false ∧ true ≠ s.pins.sck) := by decide +kernel

/-! ## The shared operations -/

/-- The transitions of an entry: a recall of an offer not yet told and of one told; the lists are in order. -/
theorem test_meetsTransitions :
    (ListsOk (board .offered .idle) ∧ ((board .offered .idle).entry 0).state = .offered)
    ∧ offerUntold (queueNotice .offer 0 100 (board .offered .idle)) 0 = true
    ∧ offerUntold (board .offered .idle) 0 = false ∧ offerUntold (board .enabling .queued) 0 = false := by
  unfold ListsOk; decide +kernel

/-- Restoration and admission: no headroom and some, a REDUCED and an ENABLING candidate, a head that fits exactly. -/
theorem test_meetsRestoration :
    headroom { board .active .on with capacity := 100 } = 0 ∧ 0 < headroom (board .reduced .on)
    ∧ ((board .reduced .on).entry 0).state = .reduced ∧ ((board .enabling .queued).entry 0).state = .enabling
    ∧ ((board .waiting .idle).entry 0).floor ≤ headroom { board .waiting .idle with capacity := 40 }
    ∧ headroom { board .waiting .idle with capacity := 39 } < ((board .waiting .idle).entry 0).floor
    ∧ (board .reduced .on).admission.Nodup := by decide +kernel

/-- Rebalance with H = C − 1 and H = C; the recomputation at the bound of its test; the shed plan with an excess and with none. -/
theorem test_meetsRebalanceAndShed :
    (let s := { board .reduced .on with capacity := 41 }
     s.supply = .operating ∧ heldTotal s < s.capacity ∧ EntriesOk s ∧ ListsOk s)
    ∧ ({ board .reduced .on with capacity := 40 } : State).capacity ≤ heldTotal { board .reduced .on with capacity := 40 }
    ∧ (let s := board .active .on
       99 + pendingTotal s < heldTotal s ∧ heldTotal s ≤ 100 + pendingTotal s ∧ excess s = 0 ∧ s.admission.Nodup)
    ∧ (let s := { board .active .on with capacity := 0 }
       EntriesOk s ∧ ListsOk s ∧ 0 < excess s ∧ (shedPlan s).entry 0 ≠ s.entry 0
       ∧ ((shedPlan s).entry 0).state = .revoking) := by
  refine ⟨⟨by decide +kernel, by decide +kernel, ?_, ?_⟩, by decide +kernel, by decide +kernel, ?_, ?_, by decide +kernel⟩
  all_goals first | (unfold EntriesOk EntryOk; decide +kernel) | (unfold ListsOk; decide +kernel)

/-- R63: of two entries of class 2, the newer is reduced and the older left, for the plan stops when D is 0. -/
theorem test_shedStops :
    let s := { (board .active .on).setEntry 1 { entryIn .active with tag := 6 } with admission := [0, 1], capacity := 150 }
    ((shedPlan s).entry 1).target = some 50 ∧ (shedPlan s).entry 0 = s.entry 0 := by decide +kernel

/-- R38 and R12 meet events that leave HOLD or LOST, and one that frees an entry. -/
theorem test_meetsWholeMachine :
    (after .holdTimerExpiry (atMs 7 (held .revoking .suspended))).supply ≠ .operating
    ∧ (let t := after (.revokeGraceExpiry 0) (atMs 7 (held .revoking .suspended))
       t.supply ≠ .operating ∧ (t.entry 0).state = .retired)
    ∧ (let t := after (.release 3 (sealed .release [0, 0]) .stop) (atMs 7 (board .reducing .on))
       (t.entry 0).state = .free ∧ (t.entry 0).gen = 1)
    ∧ opensTransaction (.release 3 [] .stop) = true ∧ opensTransaction .find = false
    ∧ (Wire.sda false) ≠ .csn true ∧ (Wire.sda false) ≠ .rstnLow ∧ ∀ k, (Wire.sda false) ≠ .rstnHigh k := by decide +kernel

/-- The kept invariants meet a step that does something: the cut of the board at the end of its reduce grace. -/
theorem test_meetsKeptInvariants :
    step { atMs 7 (board .reducing .on) with pending := [.reduceGraceExpiry 0] }
      = .next (after (.reduceGraceExpiry 0) (atMs 7 (board .reducing .on)))
    ∧ ((after (.reduceGraceExpiry 0) (atMs 7 (board .reducing .on))).slotRec 3).state = .idle
    ∧ ConfigOk (atMs 7 (board .reducing .on)) ∧ SupplyOk (atMs 7 (board .reducing .on))
    ∧ ListsOk (atMs 7 (board .reducing .on)) :=
  ⟨rfl, by decide +kernel, test_invariantInOperating.config, test_invariantInOperating.supply, test_invariantInOperating.lists⟩

end Sys2Proof.Tests
end

section
/-! PROOFS. The Contract Table (chapter 1): a QUERY's answer (O17) and what PURGE clears (O37). -/

namespace Sys2Proof.Machine

/-! ## QUERY (R21) -/

/-- A message that passes steps 1 to 6 on the state its START leaves is taken by the rules of its kind (R120). -/
theorem exec_kindCommand_passes {k : Kind} {n : Slot} {body : List Byte} {u s : State} (hs : startSeen u = s)
    (hp : Passes s k n (kindByte k :: body)) (e : BusEnd) :
    exec (kindCommand k n body e) u = .next (enterBus (afterEnd e) (handleKind k n (kindByte k :: body) s)) := by
  subst hs
  have hr : u.inReset = false := by simpa using hp.running
  have hw : windowValid u = true := by simpa using hp.window
  rw [exec_kindCommand, writeMessage_taken n _ _ _ e u hr hw hp.length_le]

theorem handleQuery_passes {s : State} {n : Slot} {msg : List Byte} (hp : Passes s .query n msg) :
    handleQuery n msg s = takeQuery n msg s := by
  simp only [handleQuery, hp.refusalOf]

theorem takeQuery_noTag {s : State} {n : Slot} {msg : List Byte} (h : ¬ HoldsTag s n (queryTag msg)) :
    takeQuery n msg s = refuse n msg .noSuchTag s := by
  simp only [takeQuery, (findTag_none_iff s n _).mpr h]

theorem takeQuery_tag {s : State} {n : Slot} {msg : List Byte} {i : Idx} (hl : SlotLimits s)
    (ha : (s.entry i).state ≠ .free) (hn : (s.entry i).slot = n) (ht : (s.entry i).tag = queryTag msg) :
    takeQuery n msg s = replyEntry n msg .accepted i (extraOf s i) s := by
  simp only [takeQuery, findTag_some hl ha hn ht]

/-- The extra field of a non-FREE entry, as Table 1-4 gives it. -/
theorem extraOf_eq {s : State} {i : Idx} {x : Nat}
    (h : (s.entry i).state = .waiting ∧ x = waitingAhead s i
      ∨ (s.entry i).state = .offered ∧ x = tensLeft s (s.entry i).deadline
      ∨ countsLease (s.entry i).state = true ∧ x = leaseLeft s (s.entry i)
      ∨ ((s.entry i).state = .revoking ∨ (s.entry i).state = .retired) ∧ x = causeCodeOf (s.entry i).cause) :
    extraOf s i = x := by
  rcases h with ⟨hst, rfl⟩ | ⟨hst, rfl⟩ | ⟨hst, rfl⟩ | ⟨hst | hst, rfl⟩
  case inr.inr.inl =>
    unfold extraOf
    cases h : (s.entry i).state <;> simp [h, countsLease] at hst ⊢
  all_goals simp only [extraOf, hst]

/-- Settles O17: the message reaches the rules of QUERY, whose search by tag finds the one entry of R17 or none. -/
theorem queryAnswers : Obligations.QueryAnswers := by
  intro n body e u s hs hp
  have hex : exec (.query n body e) u = .next (enterBus (afterEnd e) (takeQuery n (kindByte .query :: body) s)) := by
    rw [← handleQuery_passes hp]
    exact exec_kindCommand_passes hs hp e
  refine ⟨fun hno => ?_, fun i x hl ha hn ht hx => ?_⟩
  · rw [hex, takeQuery_noTag hno]
    rfl
  · rw [hex, takeQuery_tag hl ha hn ht, extraOf_eq hx]
    rfl

/-! ## PURGE (R23, R162, R173) -/

/-- What only touches contracts is told by the table, the lists, the outboxes and the slots. -/
theorem ContractsOnly.eq {s t : State} (h : ContractsOnly s t) :
    t = { s with table := t.table, waitQueue := t.waitQueue, admission := t.admission, outboxes := t.outboxes
                 nextItem := t.nextItem, slots := t.slots, inrush := t.inrush } := by
  cases s; cases t; cases h; simp_all

theorem freeAll_nextItem (l : List Idx) (s : State) : (freeAll l s).nextItem = s.nextItem := by
  induction l generalizing s with
  | nil => rfl
  | cons i l ih => rw [freeAll_cons, ih, freeEntry_nextItem]

/-- The slot records after PURGE do not depend on whether a slot has already lost its need (R162). -/
theorem purgedRec_freeEntry (i : Idx) (s : State) (n : Slot) :
    purgedRec ((freeEntry i s).slotRec n) = purgedRec (s.slotRec n) := by
  rw [freeEntry_eq]
  unfold tellNeed
  split
  · by_cases hn : n = (s.entry i).slot
    · subst hn
      generalize hu : dropNotices _ _ _ = u
      have hr : u.slotRec (s.entry i).slot = s.slotRec (s.entry i).slot := by subst hu; rfl
      by_cases hg : needGone u (s.entry i).slot
      · rw [judgeNeed_gone hg, unpowerSlot_slotRec_same, hr]
        unfold needGone at hg
        rw [hr] at hg
        rcases hg with ⟨h, -⟩ | ⟨h | h, -⟩ <;> simp [purgedRec, h]
      · rw [judgeNeed_kept hg, hr]
    · rw [judgeNeed_slotRec_ne hn]
      rfl
  · rfl

theorem purgedRec_freeAll (l : List Idx) (s : State) (n : Slot) :
    purgedRec ((freeAll l s).slotRec n) = purgedRec (s.slotRec n) := by
  induction l generalizing s with
  | nil => rfl
  | cons i l ih => rw [freeAll_cons, ih, purgedRec_freeEntry]

theorem purgeSlots_slotRec (s : State) (n : Slot) : (purgeSlots s).slotRec n = purgedRec (s.slotRec n) := by
  have hfold := foldl_setSlot (fun _ => purgedRec) allSlots (List.nodup_finRange 12) s n
  rw [if_pos (mem_allSlots n)] at hfold
  unfold purgeSlots
  generalize allSlots.foldl _ s = t at hfold ⊢
  exact hfold

/-- Changes made to one slot after another leave every other field. -/
theorem foldl_setSlot_eq (f : Slot → SlotRec → SlotRec) (l : List Slot) (s : State) :
    l.foldl (fun t n => t.setSlot n (f n (t.slotRec n))) s
      = { s with slots := (l.foldl (fun t n => t.setSlot n (f n (t.slotRec n))) s).slots } := by
  induction l generalizing s with
  | nil => rfl
  | cons n l ih =>
    rw [List.foldl_cons, ih]
    rfl

/-- The slots' part of PURGE leaves the entries, the lists and the outboxes. -/
theorem purgeSlots_eq (s : State) : purgeSlots s = { s with slots := (purgeSlots s).slots, inrush := [] } :=
  congrArg (fun t : State => { t with inrush := [] }) (foldl_setSlot_eq (fun _ => purgedRec) allSlots s)

theorem purgeSlots_table (s : State) : (purgeSlots s).table = s.table := by rw [purgeSlots_eq]

theorem purgeContracts_only (s : State) : ContractsOnly s (purgeContracts s) :=
  (freeAll_only (entriesWhere s fun e => e.state != .free) s).trans (by constructor <;> rfl)

theorem purgeContracts_entry (s : State) (i : Idx) :
    (purgeContracts s).entry i =
      if (s.entry i).state = .free then s.entry i else { blankEntry with gen := (s.entry i).gen + 1 } := by
  have h := freeAll_entry _ (nodup_entriesWhere s fun e => e.state != .free) s i
  simp only [mem_entriesWhere, bne_iff_ne, ne_eq, ite_not] at h
  exact h

theorem purgeContracts_purgedRec (s : State) (n : Slot) :
    purgedRec ((purgeContracts s).slotRec n) = purgedRec (s.slotRec n) :=
  purgedRec_freeAll (entriesWhere s fun e => e.state != .free) s n

/-- With every entry FREE nothing is held (R61). -/
theorem heldTotal_purgeContracts {s : State} (h : EntriesOk s) : heldTotal (purgeContracts s) = 0 := by
  refine List.sum_eq_zero fun x hx => ?_
  obtain ⟨i, -, rfl⟩ := List.mem_map.mp hx
  rw [purgeContracts_entry]
  split
  · next hf => rw [(h i).1 hf]; rfl
  · rfl

/-- With nothing held a deficit ends, and none begins (R54). -/
theorem judgeDeficit_heldZero {s : State} (h : heldTotal s = 0) :
    judgeDeficit s = { s with deficit := false, events := if s.deficit then s.events ||| 0x008 else s.events } := by
  unfold judgeDeficit
  rw [h, if_neg (Nat.not_lt_zero _)]
  split
  · rfl
  · next hd => rw [← eq_false_of_ne_true hd]

/-- PURGE in full: the table and the slots as its two parts leave them, every other field written out. -/
theorem hostPurge_eq {s : State} (h : EntriesOk s) :
    hostPurge s = { s with
      table := (purgeContracts s).table, waitQueue := [], admission := []
      outboxes := Vector.replicate 12 { reply := none, notices := [] }
      slots := (purgeSlots (purgeContracts s)).slots, inrush := []
      deficit := false, events := if s.deficit then s.events ||| 0x008 else s.events
      cmd := 0x04, result := 0x0100 } := by
  have hc := (purgeContracts_only s).eq
  have hn : (purgeContracts s).nextItem = s.nextItem := freeAll_nextItem _ s
  have hheld : heldTotal (purgeSlots (purgeContracts s)) = 0 := by
    rw [heldTotal_of_table (purgeSlots_table _), heldTotal_purgeContracts h]
  rw [hostPurge, judgeDeficit_heldZero hheld, purgeSlots_eq]
  generalize (purgeSlots (purgeContracts s)).slots = r
  rw [hc, hn]
  rfl

theorem purgedRec_powered {r : SlotRec} (h : r.state = .on ∨ r.state = .queued ∨ r.state = .suspended) :
    purgedRec r = { r with state := .idle, switch := false, key := none, blanking := none, fault := none, stable := none } := by
  rcases h with h | h | h <;> simp [purgedRec, switchedOff, h]

theorem purgedRec_unpowered {r : SlotRec}
    (h : r.state = .empty ∨ r.state = .idle ∨ r.state = .tripped ∨ r.state = .blocked) : purgedRec r = r := by
  rcases h with h | h | h | h <;> simp [purgedRec, h]

/-- Settles O37: the freeings leave every entry FREE, so that nothing is held, and the slots' part ends at the same records
whether or not a freeing has already turned a slot off. -/
theorem purgeClearsContracts : Obligations.PurgeClearsContracts := by
  intro s hr he
  have hp := hostPurge_eq he
  have hslot (n : Slot) : (hostPurge s).slotRec n = purgedRec (s.slotRec n) := by
    rw [← purgeContracts_purgedRec, ← purgeSlots_slotRec, hp]
    rfl
  refine ⟨hostPurge s, congrArg Host.Outcome.next (unlessReset_running hr hostPurge), ?_, fun i => ?_, fun n => ⟨?_, ?_⟩⟩
  · rw [hp]
  · rw [← purgeContracts_entry, hp]
    rfl
  · exact fun h => (hslot n).trans (purgedRec_powered h)
  · exact fun h => (hslot n).trans (purgedRec_unpowered h)

end Sys2Proof.Machine
end

section
/-! PROOFS. The Contract Table (chapter 1): the transitions of an entry that several events share (O45). -/

namespace Sys2Proof.Machine

/-! ## The transitions of an entry (R8, R9, R33, R69, R74) -/

/-- From s to t the entry's slot has been told by a notice of the kind, at the tail of its queue and in place of the entry's
earlier notice (R102, R106); every other outbox is as it was. -/
def Tells (s t : State) (k : NoticeKind) (i : Idx) (level : Nat) : Prop :=
  ∀ m : Slot, t.outbox m =
    if m = (s.entry i).slot then
      { s.outbox m with
        notices := (s.outbox m).notices.filter (fun y => y.index != i)
          ++ [{ id := s.nextItem, kind := k, index := i, gen := (s.entry i).gen, tag := (s.entry i).tag,
                level := level }] }
    else s.outbox m

theorem Tells.other {s t : State} {k : NoticeKind} {i : Idx} {level : Nat} (h : Tells s t k i level) {m : Slot}
    (hm : m ≠ (s.entry i).slot) : t.outbox m = s.outbox m := by
  rw [h, if_neg hm]

theorem Tells.reply {s t : State} {k : NoticeKind} {i : Idx} {level : Nat} (h : Tells s t k i level) :
    (t.outbox (s.entry i).slot).reply = (s.outbox (s.entry i).slot).reply := by
  rw [h, if_pos rfl]

theorem Tells.notices {s t : State} {k : NoticeKind} {i : Idx} {level : Nat} (h : Tells s t k i level) :
    (t.outbox (s.entry i).slot).notices = (s.outbox (s.entry i).slot).notices.filter (fun y => y.index != i)
      ++ [{ id := s.nextItem, kind := k, index := i, gen := (s.entry i).gen, tag := (s.entry i).tag, level := level }] := by
  rw [h, if_pos rfl]

theorem retireWith_tells (c : Option Cause) (i : Idx) (s : State) : Tells s (retireWith c i s) .closed i 0 :=
  retireWith_outbox c i s

theorem reduceEntry_tells (i : Idx) (target : Nat) (s : State) :
    Tells s (reduceEntry i target s) .reduce i target := by
  intro m
  rw [reduceEntry, queueNotice_outbox, entry_setEntry_same]
  rfl

theorem revokeEntry_tells (c : Cause) (i : Idx) (s : State) : Tells s (revokeEntry c i s) .revoke i 0 := by
  intro m
  rw [revokeEntry, queueNotice_outbox, entry_setEntry_same]
  rfl

theorem freeEntry_needLost (i : Idx) (s : State) : NeedLost s (freeEntry i s) i :=
  tellNeed_needLost (u := dropNotices (s.entry i).slot i (leaveLists i
      (s.setEntry i { blankEntry with gen := (s.entry i).gen + 1 })))
    (fun _ hj => entry_setEntry_ne s _ hj)
    (by simp only [dropNotices_entry, leaveLists_entry, entry_setEntry_same]; rfl) rfl rfl rfl

theorem retireWith_needLost (c : Option Cause) (i : Idx) (s : State) : NeedLost s (retireWith c i s) i :=
  tellNeed_needLost (u := queueNotice .closed i 0 (leaveLists i (s.setEntry i
      { s.entry i with state := .retired, cause := c, held := 0, target := none, period := none,
                       deadline := some (expiryAfter s (duration s .deliv)) })))
    (fun _ hj => entry_setEntry_ne s _ hj)
    (by simp only [queueNotice_entry, leaveLists_entry, entry_setEntry_same]; rfl) rfl rfl rfl

/-- The recalled entry with its notices settled, before its slot is told (R33, R65). -/
def recalledNotices (i : Idx) (s : State) : State :=
  if offerUntold s i then removeNotice (s.entry i).slot i .offer (returnToWaiting i s)
  else queueNotice .recall i 0 (returnToWaiting i s)

theorem recallEntry_eq (i : Idx) (s : State) : recallEntry i s = tellNeed (s.entry i) (recalledNotices i s) := rfl

theorem recalledNotices_entry (i j : Idx) (s : State) :
    (recalledNotices i s).entry j = (returnToWaiting i s).entry j := by
  unfold recalledNotices; split <;> rfl

theorem recallEntry_needLost (i : Idx) (s : State) : NeedLost s (recallEntry i s) i := by
  refine tellNeed_needLost (u := recalledNotices i s) (fun j hj => ?_) ?_ ?_ ?_ (recallEntry_eq i s)
  · rw [recalledNotices_entry, returnToWaiting_entry, if_neg hj]
  · rw [recalledNotices_entry, returnToWaiting_entry, if_pos rfl]
    rfl
  · unfold recalledNotices; split <;> rfl
  · unfold recalledNotices; split <;> rfl

theorem offerUntold_iff (s : State) (i : Idx) :
    offerUntold s i = true ↔ (s.entry i).state = .offered
      ∧ ∃ y ∈ (s.outbox (s.entry i).slot).notices, y.index = i ∧ y.kind = .offer := by
  simp [offerUntold, noticePending]

/-- The recall of an offer not yet read removes its notice and queues none (R65). -/
theorem recallEntry_untold {i : Idx} {s : State} (h : offerUntold s i = true) (m : Slot) :
    (recallEntry i s).outbox m = (removeNotice (s.entry i).slot i .offer s).outbox m := by
  rw [recallEntry_eq, tellNeed_outbox, recalledNotices, if_pos h]
  rfl

/-- Any other recall is told by a RECALL notice (R33). -/
theorem recallEntry_tells {i : Idx} {s : State} (h : ¬ offerUntold s i = true) :
    Tells s (recallEntry i s) .recall i 0 := by
  intro m
  rw [recallEntry_eq, tellNeed_outbox, recalledNotices, if_neg h, queueNotice_outbox, returnToWaiting_entry, if_pos rfl]
  rfl

/-- A recall leaves the other slots' outboxes and the reply of its own. -/
theorem recallEntry_outboxes (i : Idx) (s : State) :
    (∀ m : Slot, m ≠ (s.entry i).slot → (recallEntry i s).outbox m = s.outbox m)
    ∧ ((recallEntry i s).outbox (s.entry i).slot).reply = (s.outbox (s.entry i).slot).reply := by
  by_cases h : offerUntold s i = true
  · refine ⟨fun m hm => ?_, ?_⟩
    · rw [recallEntry_untold h, removeNotice, keepNotices_outbox, if_neg hm]
    · rw [recallEntry_untold h, removeNotice, keepNotices_outbox, if_pos rfl]
  · exact ⟨fun m hm => (recallEntry_tells h).other hm, (recallEntry_tells h).reply⟩

/-- A list in class order falls apart at the place a recalled entry takes: the higher classes and the rest. -/
theorem dropWhile_cls_le {s : State} (c : Sys2Proof.Class) {l : List Idx}
    (h : l.Pairwise fun i j => (s.entry j).cls ≤ (s.entry i).cls) :
    ∀ j ∈ l.dropWhile (fun j => decide (c < (s.entry j).cls)), (s.entry j).cls ≤ c := by
  induction l with
  | nil => simp
  | cons a l ih =>
    obtain ⟨ha, hl⟩ := List.pairwise_cons.mp h
    by_cases hc : c < (s.entry a).cls
    · rw [List.dropWhile_cons_of_pos (by simpa using hc)]
      exact ih hl
    · rw [List.dropWhile_cons_of_neg (by simpa using hc)]
      intro j hj
      rcases List.mem_cons.mp hj with rfl | hj
      · exact not_lt.mp hc
      · exact (ha j hj).trans (not_lt.mp hc)

/-- The recalled entry joins the Wait Queue behind the higher classes and ahead of its own (R33). -/
theorem returnToWaiting_waitQueue {i : Idx} {s : State} (h : i ∉ s.waitQueue) :
    (returnToWaiting i s).waitQueue =
      s.waitQueue.takeWhile (fun j => decide ((s.entry i).cls < (s.entry j).cls)) ++ i
        :: s.waitQueue.dropWhile (fun j => decide ((s.entry i).cls < (s.entry j).cls)) := by
  have hcls (j : Idx) : ((returnToWaiting i s).entry j).cls = (s.entry j).cls := by
    rw [returnToWaiting_entry]
    split
    · next hj => rw [hj]
    · rfl
  have hq : s.waitQueue.filter (· != i) = s.waitQueue := by
    refine List.filter_eq_self.mpr fun j hj => ?_
    simpa using fun hji : j = i => h (hji ▸ hj)
  have hjoin : (returnToWaiting i s).waitQueue =
      (s.waitQueue.filter (· != i)).takeWhile (fun j => decide ((s.entry i).cls < ((returnToWaiting i s).entry j).cls)) ++ i
        :: (s.waitQueue.filter (· != i)).dropWhile
          (fun j => decide ((s.entry i).cls < ((returnToWaiting i s).entry j).cls)) := rfl
  simpa only [hcls, hq] using hjoin

/-- Settles O45, a transition at a time: its frame, its entry, its lists, its notices and its slot's need. -/
theorem entryTransitions : Obligations.EntryTransitions := by
  intro i s
  refine ⟨?freed, fun c => ?retired, fun hl hst => ?recalled, fun target => ?reduced, fun c => ?revoked⟩
  case freed =>
    have hentry (j : Idx) := freeEntry_entry i j s
    have hown := (freeEntry_outbox i s (s.entry i).slot).trans (if_pos rfl)
    exact ⟨⟨freeEntry_only i s, fun j hj => (hentry j).trans (if_neg hj),
        fun m hm => (freeEntry_outbox i s m).trans (if_neg hm), by rw [hown]⟩,
      (hentry i).trans (if_pos rfl), freeEntry_waitQueue i s, freeEntry_admission i s, by rw [hown],
      freeEntry_needLost i s⟩
  case retired =>
    have htells := retireWith_tells (some c) i s
    have hentry (j : Idx) := retireWith_entry (some c) i j s
    exact ⟨⟨retireEntry_only c i s, fun j hj => (hentry j).trans (if_neg hj), fun _ => htells.other, htells.reply⟩,
      (hentry i).trans (if_pos rfl), retireWith_waitQueue _ i s, retireWith_admission _ i s, htells.notices,
      retireWith_needLost _ i s⟩
  case recalled =>
    obtain ⟨-, -, hwaits, -, hsorted⟩ := hl
    have hi : i ∉ s.waitQueue := fun hm => by
      have hw := (hwaits i).mp hm
      rcases hst with h | h <;> rw [h] at hw <;> cases hw
    have hentry (j : Idx) := recallEntry_entry i j s
    obtain ⟨hother, hreply⟩ := recallEntry_outboxes i s
    refine ⟨⟨recallEntry_only i s, fun j hj => (hentry j).trans (if_neg hj), hother, hreply⟩,
      (hentry i).trans (if_pos rfl), recallEntry_admission i s,
      ⟨s.waitQueue.takeWhile (fun j => decide ((s.entry i).cls < (s.entry j).cls)),
        s.waitQueue.dropWhile (fun j => decide ((s.entry i).cls < (s.entry j).cls)),
        List.takeWhile_append_dropWhile.symm, ?_, fun j hj => ?_, dropWhile_cls_le _ hsorted⟩,
      fun hu => ?_, fun hu => (recallEntry_tells (mt (offerUntold_iff s i).mp hu)).notices, recallEntry_needLost i s⟩
    · rw [recallEntry_waitQueue, returnToWaiting_waitQueue hi]
    · simpa using List.mem_takeWhile_imp hj
    · rw [recallEntry_untold ((offerUntold_iff s i).mpr hu), removeNotice, keepNotices_outbox, if_pos rfl]
  case reduced =>
    have htells := reduceEntry_tells i target s
    have hentry (j : Idx) := reduceEntry_entry i j target s
    exact ⟨⟨reduceEntry_only i target s, fun j hj => (hentry j).trans (if_neg hj), fun _ => htells.other, htells.reply⟩,
      (hentry i).trans (if_pos rfl), rfl, rfl, rfl, rfl, htells.notices⟩
  case revoked =>
    have htells := revokeEntry_tells c i s
    have hentry (j : Idx) := revokeEntry_entry c i j s
    exact ⟨⟨revokeEntry_only c i s, fun j hj => (hentry j).trans (if_neg hj), fun _ => htells.other, htells.reply⟩,
      (hentry i).trans (if_pos rfl), rfl, rfl, rfl, rfl, htells.notices⟩

end Sys2Proof.Machine
end

section
/-! PROOFS. The Contract Table (chapter 1): generations count the freeings of an entry (R12). What each operation does to the
generations is told by three relations, each stronger than the next: KeepsLife where no entry becomes FREE or stops being FREE,
FreesOnly where entries may become FREE, and Counted where an entry may also be claimed. -/

namespace Sys2Proof.Machine

/-! ## The relations -/

/-- No FREE entry stands in the Wait Queue (R20): what an admission may take from it is a contract. -/
def NoFreeWaits (s : State) : Prop := ∀ i ∈ s.waitQueue, (s.entry i).state ≠ .free

/-- The entry keeps its generation, and it is FREE exactly if it was. -/
def SameLife (e x : Entry) : Prop := x.gen = e.gen ∧ (x.state = .free ↔ e.state = .free)

/-- The entry becomes FREE, and its generation advances by one (R12). -/
def Freed (e x : Entry) : Prop := e.state ≠ .free ∧ x.state = .free ∧ x.gen = e.gen + 1

/-- A generation advances by one exactly when its entry becomes FREE from another state (R12). -/
def CountsFreeings (s t : State) : Prop :=
  ∀ i : Idx,
    ((s.entry i).state ≠ .free ∧ (t.entry i).state = .free → (t.entry i).gen = (s.entry i).gen + 1)
    ∧ (¬ ((s.entry i).state ≠ .free ∧ (t.entry i).state = .free) → (t.entry i).gen = (s.entry i).gen)

/-- No entry becomes FREE and no FREE entry becomes a contract. -/
structure KeepsLife (s t : State) : Prop where
  waits : NoFreeWaits s → NoFreeWaits t
  lives : NoFreeWaits s → ∀ i, SameLife (s.entry i) (t.entry i)

/-- Entries may become FREE, and no FREE entry becomes a contract. -/
structure FreesOnly (s t : State) : Prop where
  waits : NoFreeWaits s → NoFreeWaits t
  lives : NoFreeWaits s → ∀ i, SameLife (s.entry i) (t.entry i) ∨ Freed (s.entry i) (t.entry i)

/-- Generations count the freeings. -/
structure Counted (s t : State) : Prop where
  waits : NoFreeWaits s → NoFreeWaits t
  counts : NoFreeWaits s → CountsFreeings s t

theorem SameLife.refl (e : Entry) : SameLife e e := ⟨rfl, Iff.rfl⟩

theorem SameLife.trans {e x y : Entry} (h : SameLife e x) (k : SameLife x y) : SameLife e y :=
  ⟨k.1.trans h.1, k.2.trans h.2⟩

/-- A contract that stays one with its generation. -/
theorem SameLife.of_alive {e x : Entry} (he : e.state ≠ .free) (hx : x.state ≠ .free) (hg : x.gen = e.gen) :
    SameLife e x :=
  ⟨hg, iff_of_false hx he⟩

theorem KeepsLife.refl (s : State) : KeepsLife s s := ⟨id, fun _ _ => .refl _⟩

theorem KeepsLife.trans {s t u : State} (h : KeepsLife s t) (k : KeepsLife t u) : KeepsLife s u :=
  ⟨fun hq => k.waits (h.waits hq), fun hq i => (h.lives hq i).trans (k.lives (h.waits hq) i)⟩

/-- The last operation first, as an expression of the model writes it. -/
theorem KeepsLife.after {s t u : State} (k : KeepsLife t u) (h : KeepsLife s t) : KeepsLife s u := h.trans k

theorem KeepsLife.frees {s t : State} (h : KeepsLife s t) : FreesOnly s t :=
  ⟨h.waits, fun hq i => .inl (h.lives hq i)⟩

/-- An entry that is freed stays FREE, so that no generation advances twice. -/
theorem FreesOnly.trans {s t u : State} (h : FreesOnly s t) (k : FreesOnly t u) : FreesOnly s u := by
  refine ⟨fun hq => k.waits (h.waits hq), fun hq i => ?_⟩
  rcases h.lives hq i, k.lives (h.waits hq) i with ⟨h1 | ⟨ha, hf, hg⟩, h2 | ⟨ka, kf, kg⟩⟩
  · exact .inl (h1.trans h2)
  · exact .inr ⟨mt h1.2.mpr ka, kf, kg.trans (by rw [h1.1])⟩
  · exact .inr ⟨ha, h2.2.mpr hf, h2.1.trans hg⟩
  · exact absurd hf ka

theorem FreesOnly.after {s t u : State} (k : FreesOnly t u) (h : FreesOnly s t) : FreesOnly s u := h.trans k

theorem FreesOnly.counted {s t : State} (h : FreesOnly s t) : Counted s t := by
  refine ⟨h.waits, fun hq i => ?_⟩
  rcases h.lives hq i with ⟨hg, hf⟩ | ⟨ha, hf, hg⟩
  · exact ⟨fun ⟨ka, kf⟩ => absurd (hf.mp kf) ka, fun _ => hg⟩
  · exact ⟨fun _ => hg, fun hn => absurd ⟨ha, hf⟩ hn⟩

theorem KeepsLife.counted {s t : State} (h : KeepsLife s t) : Counted s t := h.frees.counted

/-- What follows a counted event without freeing or claiming changes no count. -/
theorem Counted.then_keeps {s t u : State} (h : Counted s t) (k : KeepsLife t u) : Counted s u := by
  refine ⟨fun hq => k.waits (h.waits hq), fun hq i => ?_⟩
  obtain ⟨hgen, hfree⟩ := k.lives (h.waits hq) i
  rw [hgen, hfree]
  exact h.counts hq i

/-- What goes before a counted event without freeing or claiming changes no count. -/
theorem KeepsLife.then_counted {s t u : State} (h : KeepsLife s t) (k : Counted t u) : Counted s u := by
  refine ⟨fun hq => k.waits (h.waits hq), fun hq i => ?_⟩
  obtain ⟨hgen, hfree⟩ := h.lives hq i
  rw [← hgen, ne_eq, ← hfree]
  exact k.counts (h.waits hq) i

/-! ## When they hold -/

/-- What leaves the entries and the Wait Queue as they were. -/
theorem KeepsLife.of_entries {s t : State} (he : ∀ i, t.entry i = s.entry i) (hw : t.waitQueue = s.waitQueue) :
    KeepsLife s t where
  waits hq i hi := by
    rw [he]
    exact hq i (hw ▸ hi)
  lives _ i := by
    rw [he]
    exact .refl _

/-- A change of the one entry to a contract of the same generation: a claim where the entry was FREE. -/
theorem Counted.of_update {s t : State} {i : Idx} {e : Entry} (h : ∀ j, t.entry j = if j = i then e else s.entry j)
    (he : e.state ≠ .free) (hg : e.gen = (s.entry i).gen) (hw : ∀ j ∈ t.waitQueue, j = i ∨ j ∈ s.waitQueue) :
    Counted s t where
  waits hq j hm := by
    rw [h]
    split
    · exact he
    · next hj => exact hq j ((hw j hm).resolve_left hj)
  counts _ j := by
    rw [h]
    split
    · next hj => exact hj ▸ ⟨fun h => absurd h.2 he, fun _ => hg⟩
    · exact ⟨fun h => absurd h.2 h.1, fun _ => rfl⟩

/-- A change of the one contract, which stays a contract and keeps its generation. -/
theorem KeepsLife.of_update {s t : State} {i : Idx} {e : Entry} (h : ∀ j, t.entry j = if j = i then e else s.entry j)
    (hs : (s.entry i).state ≠ .free) (he : e.state ≠ .free) (hg : e.gen = (s.entry i).gen)
    (hw : ∀ j ∈ t.waitQueue, j = i ∨ j ∈ s.waitQueue) : KeepsLife s t where
  waits := (Counted.of_update h he hg hw).waits
  lives _ j := by
    rw [h]
    split
    · next hj => exact hj ▸ .of_alive hs he hg
    · exact .refl _

/-- The contracts stay contracts. -/
theorem KeepsLife.alive {s t : State} (h : KeepsLife s t) (hq : NoFreeWaits s) {j : Idx} (hj : (s.entry j).state ≠ .free) :
    (t.entry j).state ≠ .free :=
  mt (h.lives hq j).2.mp hj

/-- Where a FREE entry waits nothing is claimed. -/
theorem KeepsLife.of_waits {s t : State} (h : NoFreeWaits s → KeepsLife s t) : KeepsLife s t :=
  ⟨fun hq => (h hq).waits hq, fun hq => (h hq).lives hq⟩

theorem KeepsLife.foldl {α : Type} (f : State → α → State) (h : ∀ s a, KeepsLife s (f s a)) (l : List α) (s : State) :
    KeepsLife s (l.foldl f s) := by
  induction l generalizing s with
  | nil => exact .refl s
  | cons a l ih => exact (h s a).trans (ih (f s a))

/-- A walk over contracts, each of which the operation keeps a contract. -/
theorem KeepsLife.foldl_alive (f : State → Idx → State) (h : ∀ s i, (s.entry i).state ≠ .free → KeepsLife s (f s i))
    (l : List Idx) (s : State) (hl : ∀ i ∈ l, (s.entry i).state ≠ .free) : KeepsLife s (l.foldl f s) := by
  induction l generalizing s with
  | nil => exact .refl s
  | cons i l ih =>
    obtain ⟨hi, hl⟩ := List.forall_mem_cons.mp hl
    exact .of_waits fun hq => (h s i hi).trans (ih (f s i) fun j hj => (h s i hi).alive hq (hl j hj))

theorem KeepsLife.ite {p : Prop} [Decidable p] {s t u : State} (h : p → KeepsLife s t) (k : ¬ p → KeepsLife s u) :
    KeepsLife s (if p then t else u) := by
  split
  · exact h ‹_›
  · exact k ‹_›

theorem Counted.ite {p : Prop} [Decidable p] {s t : State} (h : p → Counted s t) : Counted s (if p then t else s) := by
  split
  · exact h ‹_›
  · exact (KeepsLife.refl s).counted

theorem Counted.unlessReset {f : State → State} {s : State} (h : Counted s (f s)) : Counted s (unlessReset f s) := by
  rcases unlessReset_cases f s with hf | hf <;> rw [hf]
  · exact h
  · exact (KeepsLife.refl s).counted

/-! ## Updates that leave the entries and the Wait Queue -/

theorem setOutbox_keepsLife (n : Slot) (o : Outbox) (s : State) : KeepsLife s (s.setOutbox n o) :=
  .of_entries (fun _ => rfl) rfl

theorem setSlot_keepsLife (n : Slot) (r : SlotRec) (s : State) : KeepsLife s (s.setSlot n r) :=
  .of_entries (fun _ => rfl) rfl

theorem queueNotice_keepsLife (k : NoticeKind) (i : Idx) (level : Nat) (s : State) :
    KeepsLife s (queueNotice k i level s) := .of_entries (fun _ => rfl) rfl

theorem removeNotice_keepsLife (n : Slot) (i : Idx) (k : NoticeKind) (s : State) :
    KeepsLife s (removeNotice n i k s) := .of_entries (fun _ => rfl) rfl

theorem placeReply_keepsLife (n : Slot) (kind : Byte) (st : Status) (named : Option Idx) (gen : BitVec 8)
    (state : EntryState) (held extra : Nat) (s : State) :
    KeepsLife s (placeReply n kind st named gen state held extra s) := .of_entries (fun _ => rfl) rfl

theorem raise_keepsLife (e : Event) (s : State) : KeepsLife s (raise e s) := .of_entries (fun _ => rfl) rfl

theorem leaveInrush_keepsLife (n : Slot) (s : State) : KeepsLife s (leaveInrush n s) := .of_entries (fun _ => rfl) rfl

theorem unpowerSlot_keepsLife (n : Slot) (st : SlotState) (s : State) : KeepsLife s (unpowerSlot n st s) :=
  .of_entries (fun _ => rfl) rfl

theorem enterBus_keepsLife (b : Bus) (s : State) : KeepsLife s (enterBus b s) := .of_entries (fun _ => rfl) rfl

theorem complete_keepsLife (code : Byte) (r : Result) (v : Nat) (s : State) : KeepsLife s (complete code r v s) :=
  .of_entries (fun _ => rfl) rfl

theorem judgeDeficit_keepsLife (s : State) : KeepsLife s (judgeDeficit s) :=
  .of_entries (judgeDeficit_entry s) (judgeDeficit_waitQueue s)

/-- A change made to one slot after another, and to the Inrush Queue. -/
theorem foldl_setSlot_keepsLife (f : Slot → SlotRec → SlotRec) (l inrush : List Slot) (s : State) :
    KeepsLife s { l.foldl (fun t n => t.setSlot n (f n (t.slotRec n))) s with inrush := inrush } := by
  have hfold : KeepsLife s (l.foldl (fun t n => t.setSlot n (f n (t.slotRec n))) s) :=
    .foldl _ (fun t n => setSlot_keepsLife n _ t) l s
  exact hfold.trans (.of_entries (fun _ => rfl) rfl)

/-! ## Transitions of an entry -/

theorem setEntry_keepsLife {s : State} {i : Idx} {e : Entry} (hs : (s.entry i).state ≠ .free) (he : e.state ≠ .free)
    (hg : e.gen = (s.entry i).gen) : KeepsLife s (s.setEntry i e) :=
  .of_update (fun j => entry_setEntry s i j e) hs he hg fun _ => .inr

/-- Who waits when one more entry has joined at some place of the queue. -/
theorem mem_joined {l : List Idx} {p : Idx → Bool} {i j : Idx} (h : j ∈ l.takeWhile p ++ i :: l.dropWhile p) :
    j = i ∨ j ∈ l := by
  rcases List.mem_append.mp h with h | h
  · exact .inr (List.takeWhile_subset p h)
  · exact (List.mem_cons.mp h).imp_right fun h => List.dropWhile_subset p h

theorem retireWith_keepsLife (c : Option Cause) {i : Idx} {s : State} (hs : (s.entry i).state ≠ .free) :
    KeepsLife s (retireWith c i s) :=
  .of_update (fun j => retireWith_entry c i j s) hs nofun rfl
    fun _ hj => .inr (List.mem_of_mem_filter (retireWith_waitQueue c i s ▸ hj))

theorem offerEntry_keepsLife {i : Idx} (level : Nat) {s : State} (hs : (s.entry i).state ≠ .free) :
    KeepsLife s (offerEntry i level s) :=
  .of_update (fun j => offerEntry_entry i j level s) hs nofun rfl fun _ hj => .inr (List.mem_of_mem_filter hj)

theorem recallEntry_keepsLife {i : Idx} {s : State} (hs : (s.entry i).state ≠ .free) :
    KeepsLife s (recallEntry i s) :=
  .of_update (fun j => recallEntry_entry i j s) hs nofun rfl
    fun _ hj => (mem_joined (recallEntry_waitQueue i s ▸ hj)).imp_right List.mem_of_mem_filter

theorem reduceEntry_keepsLife {i : Idx} (target : Nat) {s : State} (hs : (s.entry i).state ≠ .free) :
    KeepsLife s (reduceEntry i target s) :=
  .of_update (fun j => reduceEntry_entry i j target s) hs nofun rfl fun _ => .inr

theorem revokeEntry_keepsLife (c : Cause) {i : Idx} {s : State} (hs : (s.entry i).state ≠ .free) :
    KeepsLife s (revokeEntry c i s) :=
  .of_update (fun j => revokeEntry_entry c i j s) hs nofun rfl fun _ => .inr

theorem retireAll_keepsLife (c : Cause) (l : List Idx) (s : State) (hl : ∀ i ∈ l, (s.entry i).state ≠ .free) :
    KeepsLife s (retireAll c l s) :=
  .foldl_alive _ (fun _ _ => retireWith_keepsLife _) l s hl

theorem retireSlot_keepsLife (c : Cause) (n : Slot) (s : State) : KeepsLife s (retireSlot c n s) :=
  retireAll_keepsLife c _ s fun i hi => ((ofSlotIn_iff n _ _).mp ((mem_entriesWhere s _ i).mp hi)).1

/-- A contract that becomes FREE leaves the Wait Queue, and its generation advances (R8, R12). -/
theorem freeEntry_frees {i : Idx} {s : State} (hs : (s.entry i).state ≠ .free) : FreesOnly s (freeEntry i s) := by
  refine ⟨fun hq j hj => ?_, fun _ j => ?_⟩
  · rw [freeEntry_waitQueue, List.mem_filter, bne_iff_ne] at hj
    rw [freeEntry_entry, if_neg hj.2]
    exact hq j hj.1
  · rw [freeEntry_entry]
    split
    · next hj =>
      subst hj
      exact .inr ⟨hs, rfl, rfl⟩
    · exact .inl (.refl _)

theorem freeAll_frees {l : List Idx} (hn : l.Nodup) {s : State} (hl : ∀ i ∈ l, (s.entry i).state ≠ .free) :
    FreesOnly s (freeAll l s) := by
  induction l generalizing s with
  | nil => exact (KeepsLife.refl s).frees
  | cons i l ih =>
    obtain ⟨hi, hn⟩ := List.nodup_cons.mp hn
    obtain ⟨hs, hl⟩ := List.forall_mem_cons.mp hl
    refine (freeEntry_frees hs).trans (ih hn fun j hj => ?_)
    rw [freeEntry_entry, if_neg (ne_of_mem_of_not_mem hj hi)]
    exact hl j hj

/-! ## The Budget Account's procedures -/

theorem restoreEntry_keepsLife (s : State) (i : Idx) : KeepsLife s (restoreEntry s i) := by
  unfold restoreEntry
  refine .ite (fun _ => .refl s) fun _ => ?_
  dsimp only
  split
  case h_1 hst =>
    refine .trans (setEntry_keepsLife (by rw [hst]; nofun) ?_ ?_) (queueNotice_keepsLife ..)
    · split <;> nofun
    · rfl
  case h_2 hst => exact setEntry_keepsLife (by rw [hst]; nofun) (by rw [hst]; nofun) rfl
  all_goals exact .refl s

theorem admitFrom_keepsLife (l : List Idx) (s : State) (hl : ∀ i ∈ l, (s.entry i).state ≠ .free) :
    KeepsLife s (admitFrom l s) := by
  induction l generalizing s with
  | nil => exact .refl s
  | cons i l ih =>
    rw [admitFrom]
    refine .ite (fun _ => .refl s) fun _ => .of_waits fun hq => ?_
    obtain ⟨hi, hl⟩ := List.forall_mem_cons.mp hl
    have hoffer := (offerEntry_keepsLife (min (s.entry i).requested (headroom s)) hi).trans
      (queueNotice_keepsLife .offer i (min (s.entry i).requested (headroom s)) _)
    exact hoffer.trans (ih _ fun j hj => hoffer.alive hq (hl j hj))

/-- Rebalance admits from the Wait Queue, where no FREE entry stands. -/
theorem rebalance_keepsLife (s : State) : KeepsLife s (rebalance s) := by
  refine .ite (fun _ => .of_waits fun hq => ?_) fun _ => .refl s
  have hrestore : KeepsLife s (restoration s) := .foldl _ restoreEntry_keepsLife _ s
  exact hrestore.trans (admitFrom_keepsLife _ _ (hrestore.waits hq))

theorem judgeDeficit_rebalance_keepsLife (s : State) : KeepsLife s (judgeDeficit (rebalance s)) :=
  (rebalance_keepsLife s).trans (judgeDeficit_keepsLife _)

theorem whileExcess_keepsLife (act : Idx → State → State)
    (h : ∀ i s, (s.entry i).state ≠ .free → KeepsLife s (act i s)) (l : List Idx) (s : State)
    (hl : ∀ i ∈ l, (s.entry i).state ≠ .free) : KeepsLife s (whileExcess act l s) :=
  .foldl_alive _ (fun t i hi => .ite (fun _ => .refl t) fun _ => h i t hi) l s hl

/-- A candidate of the shed plan has the property it is chosen by. -/
theorem of_mem_newestFirst {s : State} {c : Sys2Proof.Class} {p : Entry → Bool} {i : Idx} (h : i ∈ newestFirst s c p) :
    p (s.entry i) = true :=
  ((Bool.and_eq_true ..).mp (List.mem_filter.mp h).2).2

theorem isRecallable_alive {e : Entry} (h : isRecallable e = true) : e.state ≠ .free := by
  intro hf; simp [isRecallable, hf] at h

theorem isReducible_alive {e : Entry} (h : isReducible e = true) : e.state ≠ .free := by
  intro hf; simp [isReducible, hf] at h

theorem isRevocable_alive {e : Entry} (h : isRevocable e = true) : e.state ≠ .free := by
  intro hf; simp [isRevocable, hf] at h

theorem shedRecall_keepsLife (s : State) : KeepsLife s (shedRecall s) := by
  refine whileExcess_keepsLife _ (fun _ _ => recallEntry_keepsLife) _ s fun i hi => ?_
  obtain ⟨c, -, hi⟩ := List.mem_flatMap.mp hi
  exact isRecallable_alive (of_mem_newestFirst hi)

theorem shedReduce_keepsLife (c : Sys2Proof.Class) (s : State) : KeepsLife s (shedReduce c s) :=
  whileExcess_keepsLife _ (fun _ _ => reduceEntry_keepsLife _) _ s fun _ hi => isReducible_alive (of_mem_newestFirst hi)

theorem shedRevoke_keepsLife (c : Sys2Proof.Class) (s : State) : KeepsLife s (shedRevoke c s) :=
  whileExcess_keepsLife _ (fun _ _ => revokeEntry_keepsLife .shed) _ s
    fun _ hi => isRevocable_alive (of_mem_newestFirst hi)

theorem shedPlan_keepsLife (s : State) : KeepsLife s (shedPlan s) :=
  (shedRecall_keepsLife s).trans <|
    .foldl _ (fun t c => (shedReduce_keepsLife c t).trans (shedRevoke_keepsLife c _)) _ _

theorem recompute_keepsLife (c : Nat) (s : State) : KeepsLife s (recompute c s) := by
  have hset : KeepsLife s { s with capacity := c } := .of_entries (fun _ => rfl) rfl
  refine hset.trans (.trans ?_ (rebalance_keepsLife _))
  exact .ite (fun _ => shedPlan_keepsLife _) fun _ => .refl _

end Sys2Proof.Machine
end

section
/-! PROOFS. Generations count the freeings of an entry (R12), continued: the requests, the bus, the slots, the supply, the host's
commands and the pins. -/

namespace Sys2Proof.Machine

/-! ## Requests -/

theorem refuse_keepsLife (n : Slot) (msg : List Byte) (st : Status) (s : State) : KeepsLife s (refuse n msg st s) :=
  placeReply_keepsLife ..

theorem replyEntry_keepsLife (n : Slot) (msg : List Byte) (st : Status) (i : Idx) (extra : Nat) (s : State) :
    KeepsLife s (replyEntry n msg st i extra s) := placeReply_keepsLife ..

theorem wrongState_keepsLife (n : Slot) (msg : List Byte) (i : Idx) (s : State) :
    KeepsLife s (wrongState n msg i s) := replyEntry_keepsLife ..

/-- A handle names no FREE entry (R13). -/
theorem handleEntry_alive {s : State} {index gen : Nat} {i : Idx} (h : handleEntry s index gen = some i) :
    (s.entry i).state ≠ .free := by
  unfold handleEntry at h
  split at h
  · dsimp only at h
    split at h
    · next hc =>
      obtain rfl := Option.some.inj h
      exact (bne_iff_ne ..).mp ((Bool.and_eq_true ..).mp hc).1
    · cases h
  · cases h

theorem handleCheck_alive {s : State} {n : Slot} {msg : List Byte} {i : Idx} (h : handleCheck s n msg = .ok i) :
    (s.entry i).state ≠ .free := by
  unfold handleCheck at h
  split at h
  · cases h
  · next j hj =>
    split at h
    · obtain rfl := Except.ok.inj h
      exact handleEntry_alive hj
    · cases h

theorem onHandle_frees (k : Kind) (n : Slot) (msg : List Byte) (act : Idx → State → State) (s : State)
    (h : ∀ i, (s.entry i).state ≠ .free → FreesOnly s (act i s)) : FreesOnly s (onHandle k n msg act s) := by
  unfold onHandle
  split
  · exact (refuse_keepsLife ..).frees
  · split
    · exact (refuse_keepsLife ..).frees
    · next hi => exact h _ (handleCheck_alive hi)

/-- A claim makes one entry a contract with the generation it had (R14). -/
theorem claimOffered_counted (i : Idx) (n : Slot) (f : ClaimFields) (s : State) : Counted s (claimOffered i n f s) := by
  refine .of_update (i := i) (e := (claimOffered i n f s).entry i) (fun j => ?_) ?_ ?_
    fun _ hj => .inr (List.mem_of_mem_filter hj)
  · split
    · next hj => rw [hj]
    · next hj => rw [claimOffered, offerEntry_entry, if_neg hj, entry_setEntry_ne _ _ hj]
  · rw [claimOffered, offerEntry_entry, if_pos rfl]
    nofun
  · rw [claimOffered, offerEntry_entry, if_pos rfl, entry_setEntry_same]
    rfl

theorem claimWaiting_counted (i : Idx) (n : Slot) (f : ClaimFields) (s : State) : Counted s (claimWaiting i n f s) :=
  .of_update (fun j => entry_setEntry s i j { recordedEntry (s.entry i) n f with state := .waiting }) nofun rfl
    fun _ hj => mem_joined hj

theorem handleClaim_counted (n : Slot) (msg : List Byte) (s : State) : Counted s (handleClaim n msg s) := by
  unfold handleClaim
  split
  · exact (refuse_keepsLife ..).counted
  · unfold takeClaim
    dsimp only
    split
    · exact (refuse_keepsLife ..).counted
    · refine .then_keeps ?_ ((judgeDeficit_keepsLife _).after (replyEntry_keepsLife ..))
      split
      · exact claimOffered_counted ..
      · exact claimWaiting_counted ..

theorem poweredState_ne_free (e : Entry) : poweredState e ≠ .free := by
  unfold poweredState
  split <;> nofun

theorem gainNeed_keepsLife (n : Slot) (c : Sys2Proof.Class) (s : State) : KeepsLife s (gainNeed n c s) := by
  unfold gainNeed
  split
  · exact .of_entries (fun _ => rfl) rfl
  · exact setSlot_keepsLife ..
  all_goals exact .refl s

theorem confirmEntry_keepsLife {i : Idx} {s : State} (hs : (s.entry i).state ≠ .free) :
    KeepsLife s (confirmEntry i s) := by
  have hset {st : EntryState} (hst : st ≠ .free) :
      KeepsLife s (s.setEntry i (confirmedEntry s (s.entry i) st)) := setEntry_keepsLife hs hst rfl
  unfold confirmEntry
  dsimp only
  split
  case h_1 => exact hset (poweredState_ne_free _)
  case h_2 => exact (gainNeed_keepsLife ..).after (hset nofun)
  all_goals exact hset nofun

theorem takeConfirm_keepsLife (n : Slot) (msg : List Byte) {i : Idx} {s : State} (hs : (s.entry i).state ≠ .free) :
    KeepsLife s (takeConfirm n msg i s) := by
  unfold takeConfirm
  split
  case h_1 =>
    have hconfirm := confirmEntry_keepsLife (i := i) (s := removeNotice n i .offer s) hs
    exact (replyEntry_keepsLife ..).after (hconfirm.after (removeNotice_keepsLife ..))
  all_goals exact wrongState_keepsLife ..

theorem adjustedEntry_ne_free (e : Entry) (r f h : Nat) : (adjustedEntry e r f h).state ≠ .free := by
  unfold adjustedEntry
  dsimp only
  split
  · nofun
  · split <;> nofun

theorem adjustPowered_keepsLife (n : Slot) (msg : List Byte) {i : Idx} {s : State} (hs : (s.entry i).state ≠ .free) :
    KeepsLife s (adjustPowered n msg i s) := by
  unfold adjustPowered
  dsimp only
  split
  · exact replyEntry_keepsLife ..
  · next h _ =>
    have hset : KeepsLife s (removeNotice n i .restore (s.setEntry i
        (adjustedEntry (s.entry i) (adjustRequested msg) (adjustFloor msg) h))) :=
      (removeNotice_keepsLife ..).after (setEntry_keepsLife hs (adjustedEntry_ne_free _ _ _ _) rfl)
    refine (judgeDeficit_keepsLife _).after (.ite (fun _ => ?_) fun _ => ?_)
    · exact (rebalance_keepsLife _).after ((replyEntry_keepsLife ..).after hset)
    · exact (replyEntry_keepsLife ..).after hset

theorem takeAdjust_keepsLife (n : Slot) (msg : List Byte) {i : Idx} {s : State} (hs : (s.entry i).state ≠ .free) :
    KeepsLife s (takeAdjust n msg i s) := by
  unfold takeAdjust
  split
  case h_1 =>
    exact (judgeDeficit_rebalance_keepsLife _).after <| (replyEntry_keepsLife ..).after <|
      setEntry_keepsLife hs hs rfl
  case h_2 | h_3 | h_4 => exact adjustPowered_keepsLife n msg hs
  all_goals exact wrongState_keepsLife ..

theorem takeComply_keepsLife (n : Slot) (msg : List Byte) {i : Idx} {s : State} (hs : (s.entry i).state ≠ .free) :
    KeepsLife s (takeComply n msg i s) := by
  unfold takeComply
  dsimp only
  split
  · refine .ite (fun _ => replyEntry_keepsLife ..) fun _ => ?_
    exact (judgeDeficit_rebalance_keepsLife _).after <| (replyEntry_keepsLife ..).after <|
      (removeNotice_keepsLife ..).after <| setEntry_keepsLife hs nofun rfl
  all_goals exact wrongState_keepsLife ..

theorem takeRenew_keepsLife (n : Slot) (msg : List Byte) {i : Idx} {s : State} (hs : (s.entry i).state ≠ .free) :
    KeepsLife s (takeRenew n msg i s) := by
  refine .ite (fun _ => ?_) fun _ => wrongState_keepsLife ..
  exact (replyEntry_keepsLife ..).after <| (removeNotice_keepsLife ..).after <| setEntry_keepsLife hs hs rfl

theorem takeRelease_frees (n : Slot) (msg : List Byte) {i : Idx} {s : State} (hs : (s.entry i).state ≠ .free) :
    FreesOnly s (takeRelease n msg i s) :=
  .after (KeepsLife.frees ((judgeDeficit_rebalance_keepsLife _).after (placeReply_keepsLife ..))) (freeEntry_frees hs)

theorem handleQuery_keepsLife (n : Slot) (msg : List Byte) (s : State) : KeepsLife s (handleQuery n msg s) := by
  unfold handleQuery
  split
  · exact refuse_keepsLife ..
  · unfold takeQuery
    split
    · exact refuse_keepsLife ..
    · exact replyEntry_keepsLife ..

theorem handleKind_counted (k : Kind) (n : Slot) (msg : List Byte) (s : State) : Counted s (handleKind k n msg s) := by
  cases k with
  | claim => exact handleClaim_counted n msg s
  | confirm => exact (onHandle_frees _ n msg _ s fun i hi => (takeConfirm_keepsLife n msg hi).frees).counted
  | adjust => exact (onHandle_frees _ n msg _ s fun i hi => (takeAdjust_keepsLife n msg hi).frees).counted
  | comply => exact (onHandle_frees _ n msg _ s fun i hi => (takeComply_keepsLife n msg hi).frees).counted
  | renew => exact (onHandle_frees _ n msg _ s fun i hi => (takeRenew_keepsLife n msg hi).frees).counted
  | release => exact (onHandle_frees _ n msg _ s fun i hi => takeRelease_frees n msg hi).counted
  | query => exact (handleQuery_keepsLife n msg s).counted

theorem handleMessage_counted (n : Slot) (msg : List Byte) (s : State) : Counted s (handleMessage n msg s) := by
  unfold handleMessage
  split
  · exact (refuse_keepsLife ..).counted
  · split
    · exact (refuse_keepsLife ..).counted
    · exact handleKind_counted ..

/-! ## The module bus -/

/-- A CLOSED notice names a contract (R107). -/
def ClosedNamesContract (s : State) : Prop :=
  ∀ (n : Slot), ∀ x ∈ (s.outbox n).notices, x.kind = .closed → (s.entry x.index).state ≠ .free

theorem NoticesOk.closedNamesContract {s : State} (h : NoticesOk s) : ClosedNamesContract s := by
  intro n x hx hk
  obtain ⟨-, hfits, -⟩ := h.1 n
  obtain ⟨-, -, -, -, hfit⟩ := hfits x hx
  simp only [noticeFits, hk] at hfit
  rw [hfit.1]
  nofun

/-- Only the delivery of a CLOSED notice frees an entry, the one it names (R111). -/
theorem deliver_frees {s : State} (hc : ClosedNamesContract s) (item : StagedItem) : FreesOnly s (deliver item s) := by
  cases item with
  | nothing => exact (KeepsLife.refl s).frees
  | reply n id =>
    refine KeepsLife.frees ?_
    unfold deliver deliverReply
    dsimp only
    split
    · exact .refl s
    · exact .ite (fun _ => setOutbox_keepsLife ..) fun _ => .refl s
  | notice n id =>
    unfold deliver deliverNotice
    dsimp only
    split
    · exact (KeepsLife.refl s).frees
    · next x hx =>
      have hkeep : FreesOnly s (keepNotices n (fun y => y.id != id) s) := (setOutbox_keepsLife ..).frees
      split
      · next hk => exact hkeep.trans (freeEntry_frees (hc n x (List.mem_of_find?_eq_some hx) hk))
      · exact hkeep

theorem endInFlight_counted {s : State} (hc : ClosedNamesContract s) : Counted s (endInFlight s) := by
  unfold endInFlight
  split
  · unfold takeWrite
    split
    · exact handleMessage_counted ..
    all_goals exact (KeepsLife.refl s).counted
  · exact .ite fun _ => (deliver_frees hc _).counted
  all_goals exact (KeepsLife.refl s).counted

theorem endTransaction_counted {s : State} (hc : ClosedNamesContract s) (e : BusEnd) : Counted s (endTransaction e s) :=
  (endInFlight_counted hc).then_keeps (enterBus_keepsLife ..)

/-- While RSTn is held low nothing is in flight, so that a START moves the interface alone. -/
theorem startSeen_held {s : State} (h : s.inReset = true) (hr : ResetOk s) : startSeen s = enterBus .address s := by
  have hidle : s.bus = .idle := by rw [hr h]; rfl
  unfold startSeen endTransaction
  rw [endInFlight_none (.inl hidle)]
  rfl

/-- A row that begins with a START, on the state the START leaves: while RSTn is held low the row is not taken. -/
theorem unlessReset_afterStart {f : State → State} {s : State} (hr : ResetOk s) (hf : Counted (startSeen s) (f s)) :
    Counted (startSeen s) (unlessReset f s) := by
  cases h : s.inReset with
  | false => rwa [unlessReset_running h]
  | true =>
    rw [unlessReset_held h, startSeen_held h hr]
    exact KeepsLife.counted (.of_entries (fun _ => rfl) rfl)

theorem writeMessage_counted (n : Slot) (bytes : List Byte) {handler : State → State} (e : BusEnd) {s : State}
    (hr : ResetOk s) (hh : ∀ t, Counted t (handler t)) : Counted (startSeen s) (writeMessage n bytes handler e s) := by
  refine unlessReset_afterStart hr ?_
  dsimp only
  refine .then_keeps ?_ (enterBus_keepsLife ..)
  refine .ite fun _ => ?_
  split
  · exact hh _
  all_goals exact (KeepsLife.refl _).counted

/-! ## Slot Power Control -/

theorem emptyOfModule_keepsLife (n : Slot) (s : State) : KeepsLife s (emptyOfModule n s) :=
  .ite (fun _ => setSlot_keepsLife ..) fun _ => (leaveInrush_keepsLife ..).after (setSlot_keepsLife ..)

/-- A removal frees the contracts of the slot (R24). -/
theorem removeModule_frees (n : Slot) (s : State) : FreesOnly s (removeModule n s) := by
  have hfree (t : State) : FreesOnly t (freeAll (entriesWhere t (ofSlot n)) t) :=
    freeAll_frees (nodup_entriesWhere ..) fun i hi => ((ofSlot_iff n _).mp ((mem_entriesWhere t _ i).mp hi)).1
  refine .after (KeepsLife.frees ?_) ((hfree (emptyOfModule n s)).after (emptyOfModule_keepsLife n s).frees)
  exact (judgeDeficit_rebalance_keepsLife _).after <| (raise_keepsLife ..).after (setOutbox_keepsLife ..)

theorem energize_keepsLife (n : Slot) (s : State) : KeepsLife s (energize n s) := by
  refine .foldl_alive _ (fun t i hi => ?_) _ s fun i hi => ?_
  · exact setEntry_keepsLife hi (poweredState_ne_free _) rfl
  · exact ((ofSlotIn_iff n _ _).mp ((mem_entriesWhere s _ i).mp hi)).1

theorem turnOnSlot_keepsLife (n : Slot) (s : State) : KeepsLife s (turnOnSlot n s) := by
  have henergized (t : State) : KeepsLife t { energize n t with lastOn := some (ticks s) } :=
    (energize_keepsLife n t).trans (.of_entries (fun _ => rfl) rfl)
  exact (henergized _).after <| (leaveInrush_keepsLife ..).after (setSlot_keepsLife ..)

theorem tripSlot_keepsLife (n : Slot) (s : State) : KeepsLife s (tripSlot n s) := by
  have hretired : KeepsLife s (retireSlot .fault n (s.setSlot n (trippedSlot s (s.slotRec n)))) :=
    (retireSlot_keepsLife ..).after (setSlot_keepsLife ..)
  refine (judgeDeficit_rebalance_keepsLife _).after (.ite (fun _ => ?_) fun _ => ?_)
  · exact (raise_keepsLife ..).after ((raise_keepsLife ..).after hretired)
  · exact (raise_keepsLife ..).after hretired

theorem cutRec_keepsLife (n : Slot) (s : State) : KeepsLife s (cutRec n s) := by
  unfold cutRec
  split
  case h_1 | h_2 | h_3 => exact unpowerSlot_keepsLife ..
  all_goals exact .refl s

theorem cutSlot_keepsLife (n : Slot) (s : State) : KeepsLife s (cutSlot n s) :=
  (judgeDeficit_rebalance_keepsLife _).after <| (raise_keepsLife ..).after <| (cutRec_keepsLife ..).after <|
    retireSlot_keepsLife ..

theorem blockSlot_keepsLife (n : Slot) (s : State) : KeepsLife s (blockSlot n s) :=
  .ite (fun _ => .refl s) fun _ => (judgeDeficit_rebalance_keepsLife _).after <| (raise_keepsLife ..).after <|
    (retireSlot_keepsLife ..).after <| (leaveInrush_keepsLife ..).after (setSlot_keepsLife ..)

/-! ## Timers of an entry -/

/-- An entry whose timer acts is in a state other than FREE. -/
theorem deadlineDue_alive {s : State} {i : Idx} {st : EntryState} (h : deadlineDue s i st = true) (hst : st ≠ .free) :
    (s.entry i).state ≠ .free := by
  rw [beq_iff_eq.mp ((Bool.and_eq_true ..).mp h).1]
  exact hst

theorem countsLease_alive {st : EntryState} (h : countsLease st = true) : st ≠ .free := by rintro rfl; cases h

theorem leaseDue_alive {s : State} {i : Idx} (h : leaseDue s i = true) : (s.entry i).state ≠ .free := by
  simp only [leaseDue, Bool.and_eq_true] at h
  exact countsLease_alive h.1.1

theorem warningDue_alive {s : State} {i : Idx} (h : warningDue s i = true) : (s.entry i).state ≠ .free :=
  countsLease_alive ((Bool.and_eq_true ..).mp h).1

/-- A retirement that is followed by a rebalance. -/
theorem retireWith_rebalance_keepsLife (c : Option Cause) {i : Idx} {s : State} (hs : (s.entry i).state ≠ .free) :
    KeepsLife s (judgeDeficit (rebalance (retireWith c i s))) :=
  (retireWith_keepsLife c hs).trans (judgeDeficit_rebalance_keepsLife _)

/-! ## The supply -/

theorem suspendAll_keepsLife (s : State) : KeepsLife s (suspendAll s) :=
  foldl_setSlot_keepsLife (fun _ => suspendedRec) allSlots [] s

theorem restartAll_keepsLife (s : State) : KeepsLife s (restartAll s) :=
  foldl_setSlot_keepsLife (restartedRec s) allSlots (restartOrder s) s

theorem isAdmitted_alive {st : EntryState} (h : isAdmitted st = true) : st ≠ .free := by rintro rfl; cases h

theorem enterHold_keepsLife (s : State) : KeepsLife s (enterHold s) :=
  (raise_keepsLife ..).after <| (suspendAll_keepsLife _).after <| .of_entries (fun _ => rfl) rfl

theorem enterLost_keepsLife (s : State) : KeepsLife s (enterLost s) := by
  refine (judgeDeficit_keepsLife _).after <| (raise_keepsLife ..).after <| (retireAll_keepsLife _ _ _ fun i hi => ?_).after <|
    .of_entries (fun _ => rfl) rfl
  exact isAdmitted_alive ((mem_entriesWhere s (fun e => isAdmitted e.state) i).mp hi)

theorem enterOperating_keepsLife (b : Band) (s : State) : KeepsLife s (enterOperating b s) :=
  (judgeDeficit_keepsLife _).after <| (raise_keepsLife ..).after <| (restartAll_keepsLife _).after <|
    (recompute_keepsLife ..).after <| .of_entries (fun _ => rfl) rfl

theorem bandQualified_keepsLife (b : Band) (s : State) : KeepsLife s (bandQualified b s) := by
  unfold bandQualified
  split
  · exact .ite (fun _ => enterLost_keepsLife s) fun _ => enterOperating_keepsLife b s
  · exact .ite (fun _ => enterHold_keepsLife s) fun _ => (judgeDeficit_keepsLife _).after (recompute_keepsLife ..)
  all_goals exact .ite (fun _ => .refl s) fun _ => enterOperating_keepsLife b s

/-! ## The host's commands -/

theorem onSlot_keepsLife (code : Byte) {act : Slot → State → State} (h : ∀ n s, KeepsLife s (act n s)) (s : State) :
    KeepsLife s (onSlot code act s) := by
  unfold onSlot
  split
  · exact complete_keepsLife ..
  · exact (complete_keepsLife ..).after (h _ s)

theorem hostLookup_keepsLife (s : State) : KeepsLife s (hostLookup s) := by
  unfold hostLookup
  split <;> exact .of_entries (fun _ => rfl) rfl

theorem hostFind_keepsLife (s : State) : KeepsLife s (hostFind s) := by
  unfold hostFind
  split
  · split <;> exact complete_keepsLife ..
  all_goals exact complete_keepsLife ..

/-- RETIRE frees the entry it names in RETIRED alone (R172). -/
theorem retireNamed_frees {i : Idx} {s : State} (hs : (s.entry i).state ≠ .free) : FreesOnly s (retireNamed i s) := by
  unfold retireNamed
  split
  case h_1 => exact (KeepsLife.refl s).frees
  case h_2 => exact ((retireWith_keepsLife _ hs).trans (judgeDeficit_keepsLife _)).frees
  case h_3 | h_4 => exact (retireWith_rebalance_keepsLife _ hs).frees
  case h_8 => exact KeepsLife.frees (setEntry_keepsLife hs hs rfl)
  case h_9 => exact freeEntry_frees hs
  all_goals exact (revokeEntry_keepsLife .host hs).frees

theorem hostRetire_frees (s : State) : FreesOnly s (hostRetire s) := by
  unfold hostRetire
  split
  · exact (complete_keepsLife ..).frees
  · split
    · exact (complete_keepsLife ..).frees
    · next hi => exact (retireNamed_frees (handleEntry_alive hi)).trans (complete_keepsLife ..).frees

/-- PURGE frees every contract (R23). -/
theorem hostPurge_frees (s : State) : FreesOnly s (hostPurge s) := by
  have hfree : FreesOnly s (freeAll (entriesWhere s fun e => e.state != .free) s) :=
    freeAll_frees (nodup_entriesWhere ..) fun i hi => (bne_iff_ne ..).mp ((mem_entriesWhere s _ i).mp hi)
  have hcontracts : FreesOnly s (purgeContracts s) := ⟨fun _ _ hi => absurd hi List.not_mem_nil, hfree.lives⟩
  have hslots (t : State) : KeepsLife t (purgeSlots t) := foldl_setSlot_keepsLife (fun _ => purgedRec) allSlots [] t
  exact .after (KeepsLife.frees ((complete_keepsLife ..).after <| (judgeDeficit_keepsLife _).after (hslots _))) hcontracts

theorem unblockSlot_keepsLife (n : Slot) (s : State) : KeepsLife s (unblockSlot n s) :=
  .ite (fun _ => setSlot_keepsLife ..) fun _ => .refl s

theorem bringIntoForce_keepsLife (s : State) : KeepsLife s (bringIntoForce s) := by
  have hset : KeepsLife s { s with active := s.staged } := .of_entries (fun _ => rfl) rfl
  unfold bringIntoForce
  dsimp only
  split
  case h_1 => exact (judgeDeficit_keepsLife _).after ((recompute_keepsLife ..).after hset)
  all_goals exact hset

theorem hostApply_keepsLife (s : State) : KeepsLife s (hostApply s) := by
  unfold hostApply
  split
  · exact complete_keepsLife ..
  · exact (complete_keepsLife ..).after (bringIntoForce_keepsLife s)

theorem runCommand_frees (code : Byte) (s : State) : FreesOnly s (runCommand code s) := by
  unfold runCommand
  split
  · exact (hostLookup_keepsLife s).frees
  split
  · exact (hostFind_keepsLife s).frees
  split
  · exact hostRetire_frees s
  split
  · exact hostPurge_frees s
  split
  · exact (onSlot_keepsLife _ blockSlot_keepsLife s).frees
  split
  · exact (onSlot_keepsLife _ unblockSlot_keepsLife s).frees
  split
  · exact (onSlot_keepsLife _ (fun _ _ => setSlot_keepsLife ..) s).frees
  split
  · exact (hostApply_keepsLife s).frees
  · exact (complete_keepsLife ..).frees

theorem writeRegister_frees (r : BitVec 7) (v : Word) (s : State) : FreesOnly s (writeRegister r v s) := by
  have hreg {t : State} (he : ∀ i, t.entry i = s.entry i) (hw : t.waitQueue = s.waitQueue) : FreesOnly s t :=
    (KeepsLife.of_entries he hw).frees
  unfold writeRegister
  split
  · exact hreg (fun _ => rfl) rfl
  split
  · exact hreg (fun _ => rfl) rfl
  split
  · exact hreg (fun _ => rfl) rfl
  split
  · exact hreg (fun _ => rfl) rfl
  split
  · exact hreg (fun _ => rfl) rfl
  split
  · exact runCommand_frees ..
  · exact hreg (fun _ => rfl) rfl

end Sys2Proof.Machine
end

section
/-! PROOFS. Generations count the freeings of an entry (R12), concluded: every command and every change of a pin. -/

namespace Sys2Proof.Machine

/-! ## Commands -/

/-- The state a command leaves is the one it gives. -/
theorem Counted.of_next {s t u : State} (ht : (.next u : Host.Outcome State Fault Refusal) = .next t)
    (h : Counted s u) : Counted s t :=
  Host.Outcome.next.inj ht ▸ h

theorem execReadEnd_counted {s t : State} (hc : ClosedNamesContract s) (acks : List Bool) (e : BusEnd)
    (ht : execReadEnd acks e s = .next t) : Counted s t := by
  refine .of_next ht (.unlessReset ?_)
  have hset : KeepsLife s { s with bus := transferred acks s.bus } := .of_entries (fun _ => rfl) rfl
  have hcset : ClosedNamesContract { s with bus := transferred acks s.bus } := hc
  exact hset.then_counted (endTransaction_counted hcset e)

theorem considerBand_keepsLife (code : BitVec 10) (s : State) :
    KeepsLife s (considerBand (bandOf s code) { s with railCode := code, sampled := bandOf s code }) := by
  have hset : KeepsLife s { s with railCode := code, sampled := bandOf s code } := .of_entries (fun _ => rfl) rfl
  refine .after (.ite (fun _ => ?_) fun _ => .ite (fun _ => .refl _) fun _ => ?_) hset
  all_goals exact .of_entries (fun _ => rfl) rfl

theorem execQualificationTimerExpiry_counted {s t : State} (ht : execQualificationTimerExpiry s = .next t) :
    Counted s t := by
  unfold execQualificationTimerExpiry at ht
  split at ht
  · exact .of_next ht (KeepsLife.refl s).counted
  · refine .of_next ht (.ite fun _ => KeepsLife.counted ?_)
    exact (bandQualified_keepsLife _ _).after <| (raise_keepsLife ..).after <| .of_entries (fun _ => rfl) rfl

theorem execPresenceSample_counted {s t : State} (n : Slot) (high : Bool) (ht : execPresenceSample n high s = .next t) :
    Counted s t := by
  refine .of_next ht (.unlessReset (KeepsLife.counted ?_))
  exact .ite (fun _ => setSlot_keepsLife ..) fun _ => .ite (fun _ => .refl s) fun _ => setSlot_keepsLife ..

theorem insertModule_keepsLife (n : Slot) (s : State) : KeepsLife s (insertModule n s) :=
  .of_entries (fun _ => rfl) rfl

theorem execPresenceTimerExpiry_counted {s t : State} (n : Slot) (ht : execPresenceTimerExpiry n s = .next t) :
    Counted s t := by
  refine .of_next ht (.ite fun _ => ?_)
  split
  · exact (removeModule_frees n s).counted
  · exact (insertModule_keepsLife n s).counted

theorem execFaultSample_counted {s t : State} (n : Slot) (high : Bool) (ht : execFaultSample n high s = .next t) :
    Counted s t := by
  refine .of_next ht (.unlessReset (.ite fun _ => KeepsLife.counted ?_))
  exact .ite (fun _ => .ite (fun _ => .refl s) fun _ => setSlot_keepsLife ..) fun _ => setSlot_keepsLife ..

theorem execTurnOn_counted {s t : State} (ht : execTurnOn s = .next t) : Counted s t := by
  unfold execTurnOn at ht
  split at ht
  · exact .of_next ht (KeepsLife.refl s).counted
  · exact .of_next ht (.ite fun _ => (turnOnSlot_keepsLife ..).counted)

theorem execRevokeGraceExpiry_counted {s t : State} (i : Idx) (ht : execRevokeGraceExpiry i s = .next t) :
    Counted s t := by
  refine .of_next ht (.ite fun hd => KeepsLife.counted ?_)
  exact .ite (fun _ => cutSlot_keepsLife ..) fun _ => retireWith_rebalance_keepsLife _ (deadlineDue_alive hd nofun)

theorem execLeaseExpiry_counted {s t : State} (i : Idx) (ht : execLeaseExpiry i s = .next t) : Counted s t := by
  refine .of_next ht (.ite fun hd => KeepsLife.counted ?_)
  exact .ite (fun _ => retireWith_rebalance_keepsLife _ (leaseDue_alive hd)) fun _ =>
    revokeEntry_keepsLife .lease (leaseDue_alive hd)

theorem execWarningPoint_counted {s t : State} (i : Idx) (ht : execWarningPoint i s = .next t) : Counted s t := by
  refine .of_next ht (.ite fun hd => KeepsLife.counted ?_)
  have halive := warningDue_alive hd
  refine .ite (fun _ => setEntry_keepsLife halive halive rfl) fun _ => ?_
  exact (queueNotice_keepsLife ..).after (setEntry_keepsLife halive halive rfl)

/-- DELIVERY_LIMIT_EXPIRY frees the RETIRED entry (R112). -/
theorem execDeliveryLimitExpiry_counted {s t : State} (i : Idx) (ht : execDeliveryLimitExpiry i s = .next t) :
    Counted s t := by
  refine .of_next ht (.ite fun hd => FreesOnly.counted ?_)
  exact .after (KeepsLife.frees ((judgeDeficit_rebalance_keepsLife _).after (raise_keepsLife ..)))
    (freeEntry_frees (deadlineDue_alive hd nofun))

/-- The commands but for device reset and the rows that begin with a START. -/
theorem exec_counted {c : Instr} {s t : State} (hc : ClosedNamesContract s) (hreset : ∀ k, c ≠ .deviceReset k)
    (hopen : opensTransaction c = false) (ht : exec c s = .next t) : Counted s t := by
  cases c with
  | claim | confirm | adjust | comply | renew | release | query => cases hopen
  | refusedMessage | writeDiscarded | readStaging => cases hopen
  | deviceReset k => exact absurd rfl (hreset k)
  | readEnd acks e => exact execReadEnd_counted hc acks e ht
  | stallTimerExpiry tick =>
    exact .of_next ht (.ite fun _ => KeepsLife.counted ((raise_keepsLife ..).after (enterBus_keepsLife ..)))
  | railSample code => exact .of_next ht (.unlessReset (considerBand_keepsLife code s).counted)
  | qualificationTimerExpiry => exact execQualificationTimerExpiry_counted ht
  | holdTimerExpiry => exact .of_next ht (.ite fun _ => (enterLost_keepsLife s).counted)
  | presenceSample n high => exact execPresenceSample_counted n high ht
  | presenceTimerExpiry n => exact execPresenceTimerExpiry_counted n ht
  | faultSample n high => exact execFaultSample_counted n high ht
  | blankingTimerExpiry n => exact .of_next ht (.ite fun _ => (setSlot_keepsLife ..).counted)
  | trip n => exact .of_next ht (.ite fun _ => (tripSlot_keepsLife n s).counted)
  | cooldownExpiry n => exact .of_next ht (.ite fun _ => (setSlot_keepsLife ..).counted)
  | stableTimerExpiry n => exact .of_next ht (.ite fun _ => (setSlot_keepsLife ..).counted)
  | turnOn => exact execTurnOn_counted ht
  | offerWindowExpiry i =>
    exact .of_next ht (.ite fun hd => (retireWith_rebalance_keepsLife _ (deadlineDue_alive hd nofun)).counted)
  | reduceGraceExpiry i => exact .of_next ht (.ite fun _ => (cutSlot_keepsLife ..).counted)
  | revokeGraceExpiry i => exact execRevokeGraceExpiry_counted i ht
  | leaseExpiry i => exact execLeaseExpiry_counted i ht
  | warningPoint i => exact execWarningPoint_counted i ht
  | deliveryLimitExpiry i => exact execDeliveryLimitExpiry_counted i ht
  | lookup => exact .of_next ht (.unlessReset (hostLookup_keepsLife s).counted)
  | find => exact .of_next ht (.unlessReset (hostFind_keepsLife s).counted)
  | retire => exact .of_next ht (.unlessReset (hostRetire_frees s).counted)
  | purge => exact .of_next ht (.unlessReset (hostPurge_frees s).counted)
  | block => exact .of_next ht (.unlessReset (onSlot_keepsLife _ blockSlot_keepsLife s).counted)
  | unblock => exact .of_next ht (.unlessReset (onSlot_keepsLife _ unblockSlot_keepsLife s).counted)
  | clearTrips => exact .of_next ht (.unlessReset (onSlot_keepsLife _ (fun _ _ => setSlot_keepsLife ..) s).counted)
  | apply => exact .of_next ht (.unlessReset (hostApply_keepsLife s).counted)
  | unknownCommand code => exact .of_next ht (.unlessReset (runCommand_frees code s).counted)
  | eventsWrite v => exact .of_next ht (.unlessReset (KeepsLife.counted (.of_entries (fun _ => rfl) rfl)))
  | evmaskWrite v => exact .of_next ht (.unlessReset (KeepsLife.counted (.of_entries (fun _ => rfl) rfl)))
  | registerWrite r v => exact .of_next ht (.unlessReset (writeRegister_frees r v s).counted)

/-- The rows that begin with a START, on the state it leaves. -/
theorem exec_counted_afterStart {c : Instr} {s t : State} (hr : ResetOk s) (hopen : opensTransaction c = true)
    (ht : exec c s = .next t) : Counted (startSeen s) t := by
  cases c with
  | claim n body e => exact .of_next ht (writeMessage_counted n _ e hr (handleKind_counted .claim n _))
  | confirm n body e => exact .of_next ht (writeMessage_counted n _ e hr (handleKind_counted .confirm n _))
  | adjust n body e => exact .of_next ht (writeMessage_counted n _ e hr (handleKind_counted .adjust n _))
  | comply n body e => exact .of_next ht (writeMessage_counted n _ e hr (handleKind_counted .comply n _))
  | renew n body e => exact .of_next ht (writeMessage_counted n _ e hr (handleKind_counted .renew n _))
  | release n body e => exact .of_next ht (writeMessage_counted n _ e hr (handleKind_counted .release n _))
  | query n body e => exact .of_next ht (writeMessage_counted n _ e hr (handleKind_counted .query n _))
  | refusedMessage n msg e => exact .of_next ht (writeMessage_counted n msg e hr (handleMessage_counted n msg))
  | writeDiscarded n why e => exact .of_next ht (unlessReset_afterStart hr (enterBus_keepsLife ..).counted)
  | readStaging a => exact .of_next ht (unlessReset_afterStart hr (enterBus_keepsLife ..).counted)
  | _ => cases hopen

/-! ## Changes of the pins -/

theorem endReset_entry (k : BitVec 3) (s : State) (i : Idx) : (endReset k s).entry i = blankEntry :=
  Vector.getElem_replicate ..

theorem beginReset_entry (s : State) (i : Idx) : (beginReset s).entry i = blankEntry := Vector.getElem_replicate ..

/-- While RSTn is held low every entry is as device reset leaves it. -/
theorem entry_held {s : State} (h : s.inReset = true) (hr : ResetOk s) (i : Idx) : s.entry i = blankEntry := by
  rw [hr h]
  exact Vector.getElem_replicate ..

theorem waitQueue_held {s : State} (h : s.inReset = true) (hr : ResetOk s) : s.waitQueue = [] := by
  rw [hr h]
  rfl

theorem takeWireInReset_keepsLife {s : State} (h : s.inReset = true) (hr : ResetOk s) (w : Wire) :
    KeepsLife s (takeWireInReset w s) := by
  cases w with
  | rstnHigh k =>
    refine .of_entries (fun i => ?_) (waitQueue_held h hr).symm
    rw [entry_held h hr]
    exact endReset_entry k s i
  | _ => exact .of_entries (fun _ => rfl) rfl

theorem moveScl_keepsLife (high : Bool) (s : State) : KeepsLife s (moveScl high s) := by
  rw [moveScl_eq]
  exact .of_entries (fun _ => rfl) rfl

theorem moveSck_keepsLife (high : Bool) (s : State) : KeepsLife s (moveSck high s) := by
  rw [moveSck_eq]
  exact .of_entries (fun _ => rfl) rfl

theorem moveSda_counted {s : State} (hc : ClosedNamesContract s) (high : Bool) : Counted s (moveSda high s) := by
  have hset : KeepsLife s { s with pins := { s.pins with sda := high } } := .of_entries (fun _ => rfl) rfl
  have hcset : ClosedNamesContract { s with pins := { s.pins with sda := high } } := hc
  rcases moveSda_cases high s with h | h | h <;> rw [h]
  · exact hset.then_counted (endTransaction_counted hcset .restart)
  · exact hset.then_counted (endTransaction_counted hcset .stop)
  · exact hset.counted

theorem moveCsn_frees (high : Bool) (s : State) : FreesOnly s (moveCsn high s) := by
  unfold moveCsn
  split
  · exact (KeepsLife.refl s).frees
  split
  · have hset : KeepsLife s { s with pins := { s.pins with csn := true }, frame := .closed } :=
      .of_entries (fun _ => rfl) rfl
    rcases endFrame_cases s.frame { s with pins := { s.pins with csn := true }, frame := .closed } with ⟨r, v, h⟩ | h <;>
      rw [h]
    · exact hset.frees.trans (writeRegister_frees r v _)
    · exact hset.frees
  · exact KeepsLife.frees (.of_entries (fun _ => rfl) rfl)

/-- Every change of a pin but the fall of RSTn. -/
theorem takeWire_counted {s : State} (hr : ResetOk s) (hc : ClosedNamesContract s) {w : Wire} (hw : w ≠ .rstnLow) :
    Counted s (takeWire w s) := by
  cases h : s.inReset with
  | true =>
    simp only [takeWire, h, if_true]
    exact (takeWireInReset_keepsLife h hr w).counted
  | false =>
    rw [takeWire_running h]
    cases w with
    | scl high => exact (moveScl_keepsLife high s).counted
    | sda high => exact moveSda_counted hc high
    | csn high => exact (moveCsn_frees high s).counted
    | sck high => exact (moveSck_keepsLife high s).counted
    | sdi high => exact KeepsLife.counted (.of_entries (fun _ => rfl) rfl)
    | rstnLow => exact absurd rfl hw
    | rstnHigh k => exact (KeepsLife.refl s).counted

/-- The fall of RSTn, and RSTn staying low, leave every generation 0. -/
theorem takeWire_rstnLow_gen {s : State} (hr : ResetOk s) (i : Idx) : ((takeWire .rstnLow s).entry i).gen = 0 := by
  cases h : s.inReset with
  | true =>
    rw [takeWire_held (w := .rstnLow) h fun _ => nofun]
    exact congrArg Entry.gen (entry_held h hr i)
  | false =>
    rw [takeWire_running h]
    exact congrArg Entry.gen (beginReset_entry s i)

theorem ListsOk.noFreeWaits {s : State} (h : ListsOk s) : NoFreeWaits s := by
  obtain ⟨-, -, hwaits, -, -⟩ := h
  intro i hi
  rw [(hwaits i).mp hi]
  nofun

/-- Settles O52: device reset leaves blank entries, and of all other events only a freeing moves a generation. An event cannot
free an entry and make it a contract again, since what it admits comes from the Wait Queue, which holds contracts alone. -/
theorem generationsCountFreeings : Obligations.GenerationsCountFreeings := by
  refine ⟨fun k s i => ⟨endReset k s, rfl, congrArg Entry.gen (endReset_entry k s i)⟩,
    fun s i hi => takeWire_rstnLow_gen hi.reset i, fun c s t hi hreset ht => ⟨fun hopen => ?_, fun hopen => ?_⟩,
    fun w s hi hw => ?_⟩
  · exact (exec_counted hi.notices.closedNamesContract hreset hopen ht).counts hi.lists.noFreeWaits
  · have hstart : Counted s (startSeen s) := endTransaction_counted hi.notices.closedNamesContract .restart
    exact ⟨hstart.counts hi.lists.noFreeWaits,
      (exec_counted_afterStart hi.reset hopen ht).counts (hstart.waits hi.lists.noFreeWaits)⟩
  · exact (takeWire_counted hi.reset hi.notices.closedNamesContract hw).counts hi.lists.noFreeWaits

end Sys2Proof.Machine
end

section
/-! PROOFS. No entry enters OFFERED and no held level rises out of OPERATING or above C (R38). What an operation does to the
levels is told by three relations: NoRise where nothing rises, WithinBudget where what rises leaves the supply OPERATING with
H ≤ C, and Spends where moreover the supply state and C stay, so that such operations can follow one another. -/

namespace Sys2Proof.Machine

/-! ## The relations -/

/-- From x to e the held level does not rise, and the entry does not enter OFFERED. -/
def NotRaised (x e : Entry) : Prop := e.held ≤ x.held ∧ (e.state = .offered → x.state = .offered)

/-- No held level rises and no entry enters OFFERED. -/
def NoRise (s t : State) : Prop := ∀ i, NotRaised (s.entry i) (t.entry i)

/-- Where something rises, the supply is left OPERATING with H ≤ C. -/
def WithinBudget (s t : State) : Prop := NoRise s t ∨ (t.supply = .operating ∧ heldTotal t ≤ t.capacity)

/-- The level a REDUCING entry is asked for does not exceed the level it holds (R5): a COMPLY is no rise. -/
def TargetOk (e : Entry) : Prop := e.state = .reducing → e.target.getD e.held ≤ e.held

/-- Every REDUCING entry is asked for no more than it holds. -/
def TargetsOk (s : State) : Prop := ∀ i, TargetOk (s.entry i)

/-- The supply state and C stay, levels rise within the budget alone, and targets stay below the held levels. -/
structure Spends (s t : State) : Prop where
  supply : t.supply = s.supply
  capacity : t.capacity = s.capacity
  targets : TargetsOk s → TargetsOk t
  within : WithinBudget s t

theorem EntryOk.targetOk {e : Entry} (h : EntryOk e) : TargetOk e := by
  obtain ⟨-, -, -, -, -, -, hreducing, -⟩ := h
  intro hst
  obtain ⟨-, hlt⟩ := hreducing hst
  cases ht : e.target with
  | none => exact le_rfl
  | some target =>
    rw [ht] at hlt
    exact hlt.le

theorem EntriesOk.targetsOk {s : State} (h : EntriesOk s) : TargetsOk s := fun i => (h i).targetOk

theorem NotRaised.refl (e : Entry) : NotRaised e e := ⟨le_rfl, id⟩

theorem NotRaised.trans {x y z : Entry} (h : NotRaised x y) (k : NotRaised y z) : NotRaised x z :=
  ⟨k.1.trans h.1, fun hz => h.2 (k.2 hz)⟩

/-- An entry left with nothing held, in a state other than OFFERED. -/
theorem NotRaised.of_zero {x e : Entry} (h : e.held = 0) (hst : e.state ≠ .offered) : NotRaised x e :=
  ⟨h ▸ Nat.zero_le _, fun he => absurd he hst⟩

theorem TargetOk.of_ne {e : Entry} (h : e.state ≠ .reducing) : TargetOk e := fun he => absurd he h

/-! ## Nothing rises -/

theorem NoRise.refl (s : State) : NoRise s s := fun _ => .refl _

theorem NoRise.trans {s t u : State} (h : NoRise s t) (k : NoRise t u) : NoRise s u := fun i => (h i).trans (k i)

theorem NoRise.of_table {s t : State} (h : t.table = s.table) : NoRise s t := by
  intro i
  rw [entry_of_table h]
  exact .refl _

theorem NoRise.of_update {s t : State} {i : Idx} {e : Entry} (h : ∀ j, t.entry j = if j = i then e else s.entry j)
    (he : NotRaised (s.entry i) e) : NoRise s t := by
  intro j
  rw [h]
  split
  · next hj => exact hj ▸ he
  · exact .refl _

theorem NoRise.foldl {α : Type} (f : State → α → State) (h : ∀ s a, NoRise s (f s a)) (l : List α) (s : State) :
    NoRise s (l.foldl f s) := by
  induction l generalizing s with
  | nil => exact .refl s
  | cons a l ih => exact (h s a).trans (ih (f s a))

theorem NoRise.ite {p : Prop} [Decidable p] {s t u : State} (h : NoRise s t) (k : NoRise s u) :
    NoRise s (if p then t else u) := by
  split
  · exact h
  · exact k

/-- Where no held level rises, H does not rise (R50). -/
theorem NoRise.heldTotal_le {s t : State} (h : NoRise s t) : heldTotal t ≤ heldTotal s :=
  sum_map_le _ _ _ fun i => (h i).1

/-! ## Rises within the budget -/

theorem WithinBudget.refl (s : State) : WithinBudget s s := .inl (.refl s)

theorem NoRise.then_within {s t u : State} (h : NoRise s t) (k : WithinBudget t u) : WithinBudget s u :=
  k.imp_left h.trans

/-- What follows keeps the supply state and C, so that H, once within C, stays there. -/
theorem WithinBudget.then_spends {s t u : State} (h : WithinBudget s t) (k : Spends t u) : WithinBudget s u := by
  rcases k.within with hfall | hin
  · rcases h with h | ⟨hop, hle⟩
    · exact .inl (h.trans hfall)
    · refine .inr ⟨k.supply.trans hop, ?_⟩
      rw [k.capacity]
      exact hfall.heldTotal_le.trans hle
  · exact .inr hin

theorem WithinBudget.ite {p : Prop} [Decidable p] {s t u : State} (h : WithinBudget s t) (k : WithinBudget s u) :
    WithinBudget s (if p then t else u) := by
  split
  · exact h
  · exact k

theorem WithinBudget.unlessReset {f : State → State} {s : State} (h : WithinBudget s (f s)) :
    WithinBudget s (unlessReset f s) := by
  rcases unlessReset_cases f s with hf | hf <;> rw [hf]
  · exact h
  · exact .refl s

theorem Spends.trans {s t u : State} (h : Spends s t) (k : Spends t u) : Spends s u where
  supply := k.supply.trans h.supply
  capacity := k.capacity.trans h.capacity
  targets hs := k.targets (h.targets hs)
  within := h.within.then_spends k

/-- The last operation first, as an expression of the model writes it. -/
theorem Spends.after {s t u : State} (k : Spends t u) (h : Spends s t) : Spends s u := h.trans k

/-- What leaves the table, the supply state and C. -/
theorem Spends.of_table {s t : State} (ht : t.table = s.table) (hs : t.supply = s.supply) (hc : t.capacity = s.capacity) :
    Spends s t where
  supply := hs
  capacity := hc
  targets h i := by
    rw [entry_of_table ht]
    exact h i
  within := .inl (.of_table ht)

theorem Spends.refl (s : State) : Spends s s := .of_table rfl rfl rfl

theorem TargetsOk.of_update {s t : State} {i : Idx} {e : Entry} (hs : TargetsOk s)
    (h : ∀ j, t.entry j = if j = i then e else s.entry j) (he : TargetOk e) : TargetsOk t := by
  intro j
  rw [h]
  split
  · exact he
  · exact hs j

/-- A change of the one entry that is no rise. -/
theorem Spends.of_update {s t : State} {i : Idx} {e : Entry} (k : ContractsOnly s t)
    (h : ∀ j, t.entry j = if j = i then e else s.entry j) (he : NotRaised (s.entry i) e)
    (ht : TargetOk (s.entry i) → TargetOk e) : Spends s t where
  supply := k.supply
  capacity := k.capacity
  targets hs := hs.of_update h (ht (hs i))
  within := .inl (.of_update h he)

/-- A change of the one entry that raises its held level by the headroom at most, the supply being OPERATING with H ≤ C. -/
theorem Spends.of_raise {s t : State} {i : Idx} {e : Entry} (k : ContractsOnly s t)
    (h : ∀ j, t.entry j = if j = i then e else s.entry j) (hop : s.supply = .operating)
    (hcover : heldTotal s ≤ s.capacity) (he : e.held ≤ (s.entry i).held + headroom s) (hst : e.state ≠ .reducing) :
    Spends s t where
  supply := k.supply
  capacity := k.capacity
  targets hs := hs.of_update h (.of_ne hst)
  within := by
    have hsum := heldTotal_change i fun j hj => (h j).trans (if_neg hj)
    have hi : t.entry i = e := (h i).trans (if_pos rfl)
    rw [hi] at hsum
    unfold headroom at he
    refine .inr ⟨k.supply.trans hop, ?_⟩
    rw [k.capacity]
    omega

/-- Where C covers H, it does so after a spending. -/
theorem Spends.covered {s t : State} (h : Spends s t) (hs : heldTotal s ≤ s.capacity) : heldTotal t ≤ t.capacity := by
  rcases h.within with hfall | ⟨-, hle⟩
  · rw [h.capacity]
    exact hfall.heldTotal_le.trans hs
  · exact hle

theorem Spends.foldl {α : Type} (f : State → α → State) (h : ∀ s a, Spends s (f s a)) (l : List α) (s : State) :
    Spends s (l.foldl f s) := by
  induction l generalizing s with
  | nil => exact .refl s
  | cons a l ih => exact (h s a).trans (ih (f s a))

theorem Spends.ite {p : Prop} [Decidable p] {s t u : State} (h : Spends s t) (k : Spends s u) :
    Spends s (if p then t else u) := by
  split
  · exact h
  · exact k

theorem Spends.unlessReset {f : State → State} {s : State} (h : Spends s (f s)) : Spends s (unlessReset f s) := by
  rcases unlessReset_cases f s with hf | hf <;> rw [hf]
  · exact h
  · exact .refl s

/-- There is headroom only where C covers H (R53). -/
theorem covered_of_headroom {s : State} (h : headroom s ≠ 0) : heldTotal s ≤ s.capacity := by
  unfold headroom at h
  omega

/-! ## Outboxes, slots and flags: no entry changes -/

theorem setOutbox_spends (n : Slot) (o : Outbox) (s : State) : Spends s (s.setOutbox n o) := .of_table rfl rfl rfl

theorem setSlot_spends (n : Slot) (r : SlotRec) (s : State) : Spends s (s.setSlot n r) := .of_table rfl rfl rfl

theorem queueNotice_spends (k : NoticeKind) (i : Idx) (level : Nat) (s : State) : Spends s (queueNotice k i level s) :=
  .of_table rfl rfl rfl

theorem removeNotice_spends (n : Slot) (i : Idx) (k : NoticeKind) (s : State) : Spends s (removeNotice n i k s) :=
  .of_table rfl rfl rfl

theorem placeReply_spends (n : Slot) (kind : Byte) (st : Status) (named : Option Idx) (gen : BitVec 8)
    (state : EntryState) (held extra : Nat) (s : State) : Spends s (placeReply n kind st named gen state held extra s) :=
  .of_table rfl rfl rfl

theorem leaveInrush_spends (n : Slot) (s : State) : Spends s (leaveInrush n s) := .of_table rfl rfl rfl

theorem unpowerSlot_spends (n : Slot) (st : SlotState) (s : State) : Spends s (unpowerSlot n st s) :=
  .of_table rfl rfl rfl

theorem raise_spends (e : Event) (s : State) : Spends s (raise e s) := .of_table rfl rfl rfl

theorem judgeDeficit_spends (s : State) : Spends s (judgeDeficit s) :=
  .of_table (judgeDeficit_table s) (judgeDeficit_only s).supply (judgeDeficit_only s).capacity

/-- The suspension leaves the entries (R157). -/
theorem suspendAll_eq (s : State) : suspendAll s = { s with slots := (suspendAll s).slots, inrush := [] } :=
  congrArg (fun t : State => { t with inrush := [] }) (foldl_setSlot_eq (fun _ => suspendedRec) allSlots s)

/-- The restart leaves the entries (R158). -/
theorem restartAll_eq (s : State) :
    restartAll s = { s with slots := (restartAll s).slots, inrush := restartOrder s } :=
  congrArg (fun t : State => { t with inrush := restartOrder s }) (foldl_setSlot_eq (restartedRec s) allSlots s)

theorem suspendAll_spends (s : State) : Spends s (suspendAll s) := by
  rw [suspendAll_eq]
  exact .of_table rfl rfl rfl

theorem restartAll_spends (s : State) : Spends s (restartAll s) := by
  rw [restartAll_eq]
  exact .of_table rfl rfl rfl

theorem purgeSlots_spends (s : State) : Spends s (purgeSlots s) := by
  rw [purgeSlots_eq]
  exact .of_table rfl rfl rfl

/-! ## Transitions of an entry -/

theorem setEntry_spends {s : State} {i : Idx} {e : Entry} (he : NotRaised (s.entry i) e)
    (ht : TargetOk (s.entry i) → TargetOk e) : Spends s (s.setEntry i e) :=
  .of_update (setEntry_only i e s) (fun j => entry_setEntry s i j e) he ht

theorem freeEntry_spends (i : Idx) (s : State) : Spends s (freeEntry i s) :=
  .of_update (freeEntry_only i s) (fun j => freeEntry_entry i j s) (.of_zero rfl nofun) fun _ => .of_ne nofun

theorem freeAll_spends (l : List Idx) (s : State) : Spends s (freeAll l s) :=
  .foldl _ (fun t i => freeEntry_spends i t) l s

theorem retireWith_spends (c : Option Cause) (i : Idx) (s : State) : Spends s (retireWith c i s) :=
  .of_update (retireWith_only c i s) (fun j => retireWith_entry c i j s) (.of_zero rfl nofun) fun _ => .of_ne nofun

theorem retireAll_spends (c : Cause) (l : List Idx) (s : State) : Spends s (retireAll c l s) :=
  .foldl _ (fun t i => retireWith_spends (some c) i t) l s

theorem retireSlot_spends (c : Cause) (n : Slot) (s : State) : Spends s (retireSlot c n s) := retireAll_spends ..

theorem recallEntry_noRise (i : Idx) (s : State) : NoRise s (recallEntry i s) :=
  .of_update (fun j => recallEntry_entry i j s) (.of_zero rfl nofun)

theorem reduceEntry_noRise (i : Idx) (target : Nat) (s : State) : NoRise s (reduceEntry i target s) :=
  .of_update (fun j => reduceEntry_entry i j target s) ⟨le_rfl, nofun⟩

theorem revokeEntry_spends (c : Cause) (i : Idx) (s : State) : Spends s (revokeEntry c i s) :=
  .of_update (revokeEntry_only c i s) (fun j => revokeEntry_entry c i j s) ⟨le_rfl, nofun⟩ fun _ => .of_ne nofun

theorem revokeEntry_noRise (c : Cause) (i : Idx) (s : State) : NoRise s (revokeEntry c i s) :=
  .of_update (fun j => revokeEntry_entry c i j s) ⟨le_rfl, nofun⟩

/-! ## The Budget Account's procedures -/

/-- A candidate is raised by the headroom at most (R56). -/
theorem restoreEntry_spends {s : State} (hop : s.supply = .operating) (i : Idx) : Spends s (restoreEntry s i) := by
  unfold restoreEntry
  split
  · exact .refl s
  · next hroom =>
    have hset {e : Entry} (he : e.held = min (s.entry i).requested ((s.entry i).held + headroom s))
        (hst : e.state ≠ .reducing) : Spends s (s.setEntry i e) :=
      .of_raise (setEntry_only i e s) (fun j => entry_setEntry s i j e) hop (covered_of_headroom hroom)
        (he ▸ Nat.min_le_right ..) hst
    dsimp only
    split
    case h_1 =>
      refine (queueNotice_spends ..).after (hset rfl ?_)
      dsimp only
      split <;> nofun
    case h_2 hst => exact hset rfl (by rw [hst]; nofun)
    all_goals exact .refl s

theorem restoration_spends {s : State} (hop : s.supply = .operating) : Spends s (restoration s) := by
  unfold restoration
  generalize restoreOrder s = l
  induction l generalizing s with
  | nil => exact .refl s
  | cons i l ih =>
    have hone := restoreEntry_spends hop i
    rw [List.foldl_cons]
    exact hone.trans (ih (hone.supply.trans hop))

/-- Each offer is of the headroom at most (R37). -/
theorem admitFrom_spends (l : List Idx) {s : State} (hop : s.supply = .operating) (hcover : heldTotal s ≤ s.capacity) :
    Spends s (admitFrom l s) := by
  induction l generalizing s with
  | nil => exact .refl s
  | cons i l ih =>
    rw [admitFrom]
    refine .ite (.refl s) ?_
    have hone : Spends s (offerEntry i (min (s.entry i).requested (headroom s)) s) :=
      .of_raise (offerEntry_only ..) (fun j => offerEntry_entry i j _ s) hop hcover
        ((Nat.min_le_right ..).trans (Nat.le_add_left ..)) nofun
    have hoffer : Spends s (queueNotice .offer i (min (s.entry i).requested (headroom s))
        (offerEntry i (min (s.entry i).requested (headroom s)) s)) := (queueNotice_spends ..).after hone
    exact hoffer.trans (ih (hoffer.supply.trans hop) (hoffer.covered hcover))

/-- Rebalance spends headroom in OPERATING with H < C alone (R55). -/
theorem rebalance_spends (s : State) : Spends s (rebalance s) := by
  unfold rebalance
  split
  · next h =>
    simp only [mayRebalance, Bool.and_eq_true, beq_iff_eq, decide_eq_true_eq] at h
    obtain ⟨hop, hlt⟩ := h
    have hrestore := restoration_spends hop
    exact hrestore.trans (admitFrom_spends _ (hrestore.supply.trans hop) (hrestore.covered hlt.le))
  · exact .refl s

theorem judgeDeficit_rebalance_spends (s : State) : Spends s (judgeDeficit (rebalance s)) :=
  (rebalance_spends s).trans (judgeDeficit_spends _)

theorem whileExcess_noRise (act : Idx → State → State) (h : ∀ i s, NoRise s (act i s)) (l : List Idx) (s : State) :
    NoRise s (whileExcess act l s) :=
  .foldl _ (fun t i => .ite (.refl t) (h i t)) l s

/-- The shed plan takes held levels down alone (R63). -/
theorem shedPlan_noRise (s : State) : NoRise s (shedPlan s) := by
  have hrecall : NoRise s (shedRecall s) := whileExcess_noRise _ recallEntry_noRise _ s
  have hreduce (c : Sys2Proof.Class) (t : State) : NoRise t (shedReduce c t) :=
    whileExcess_noRise _ (fun i u => reduceEntry_noRise i _ u) _ t
  have hrevoke (c : Sys2Proof.Class) (t : State) : NoRise t (shedRevoke c t) :=
    whileExcess_noRise _ (revokeEntry_noRise .shed) _ t
  exact hrecall.trans (.foldl _ (fun t c => (hreduce c t).trans (hrevoke c _)) _ _)

/-- C takes a new value: what rises is the rebalance's, under the new C (R49). -/
theorem recompute_within (c : Nat) (s : State) : WithinBudget s (recompute c s) := by
  have hset : NoRise s { s with capacity := c } := .of_table rfl
  exact (hset.trans (.ite (shedPlan_noRise _) (.refl _))).then_within (rebalance_spends _).within

end Sys2Proof.Machine
end

section
/-! PROOFS. No level rises without budget (R38), continued: the requests and the bus. -/

namespace Sys2Proof.Machine

/-! ## Requests -/

theorem refuse_spends (n : Slot) (msg : List Byte) (st : Status) (s : State) : Spends s (refuse n msg st s) :=
  placeReply_spends ..

theorem replyEntry_spends (n : Slot) (msg : List Byte) (st : Status) (i : Idx) (extra : Nat) (s : State) :
    Spends s (replyEntry n msg st i extra s) := placeReply_spends ..

theorem wrongState_spends (n : Slot) (msg : List Byte) (i : Idx) (s : State) : Spends s (wrongState n msg i s) :=
  replyEntry_spends ..

theorem onHandle_spends (k : Kind) (n : Slot) (msg : List Byte) {act : Idx → State → State} {s : State}
    (h : ∀ i, Spends s (act i s)) : Spends s (onHandle k n msg act s) := by
  unfold onHandle
  split
  · exact refuse_spends ..
  · split
    · exact refuse_spends ..
    · exact h _

/-- A message that passes the validation order has its fields in range (R122). -/
theorem fieldsInRange_of_refusalOf {s : State} {k : Kind} {n : Slot} {msg : List Byte} (h : refusalOf s k n msg = none) :
    fieldsInRange k msg = true := by
  by_contra hf
  unfold refusalOf at h
  rw [Bool.not_eq_true] at hf
  rw [hf] at h
  split at h
  · cases h
  · split at h <;> cases h

/-- The floor of a CLAIM that passes is at least 1 (Table 7-5). -/
theorem claimFields_floor_pos {msg : List Byte} (h : fieldsInRange .claim msg = true) : 1 ≤ (claimFields msg).floor := by
  simp only [fieldsInRange, levelsInRange, Bool.and_eq_true, decide_eq_true_eq] at h
  obtain ⟨-, -, -, hfloor, -⟩ := h
  exact hfloor

/-- A claim is offered at once within the headroom, which covers a floor of at least 1 (R27, R29). -/
theorem claimOffered_spends {i : Idx} {n : Slot} {f : ClaimFields} {s : State} (h : admissible s f.cls f.floor = true)
    (hfloor : 1 ≤ f.floor) : Spends s (claimOffered i n f s) := by
  obtain ⟨hop, -, hroom⟩ := (admissible_iff s f.cls f.floor).mp h
  refine .of_raise (i := i) (e := (claimOffered i n f s).entry i) (claimOffered_only i n f s) (fun j => ?_) hop
    (covered_of_headroom (by omega)) ?_ ?_
  · split
    · next hj => rw [hj]
    · next hj => rw [claimOffered, offerEntry_entry, if_neg hj, entry_setEntry_ne _ _ hj]
  · rw [claimOffered, offerEntry_entry, if_pos rfl]
    exact (Nat.min_le_right ..).trans (Nat.le_add_left ..)
  · rw [claimOffered, offerEntry_entry, if_pos rfl]
    nofun

theorem claimWaiting_spends (i : Idx) (n : Slot) (f : ClaimFields) (s : State) : Spends s (claimWaiting i n f s) :=
  .of_update (claimWaiting_only i n f s)
    (fun j => entry_setEntry s i j { recordedEntry (s.entry i) n f with state := .waiting })
    (.of_zero rfl nofun) fun _ => .of_ne nofun

theorem handleClaim_spends (n : Slot) (msg : List Byte) (s : State) : Spends s (handleClaim n msg s) := by
  unfold handleClaim
  split
  · exact refuse_spends ..
  · next hpass =>
    have hfloor := claimFields_floor_pos (fieldsInRange_of_refusalOf hpass)
    unfold takeClaim
    dsimp only
    split
    · exact refuse_spends ..
    · refine .after (judgeDeficit_spends _) (.after (replyEntry_spends ..) ?_)
      split
      · next hadmit => exact claimOffered_spends hadmit hfloor
      · exact claimWaiting_spends ..

theorem poweredState_live (e : Entry) : poweredState e = .active ∨ poweredState e = .reduced := by
  unfold poweredState
  split
  · exact .inl rfl
  · exact .inr rfl

theorem poweredState_ne (e : Entry) : poweredState e ≠ .offered ∧ poweredState e ≠ .reducing := by
  rcases poweredState_live e with h | h <;> rw [h] <;> exact ⟨nofun, nofun⟩

theorem gainNeed_spends (n : Slot) (c : Sys2Proof.Class) (s : State) : Spends s (gainNeed n c s) := by
  unfold gainNeed
  split <;> exact .of_table rfl rfl rfl

/-- A confirmed entry holds what it was offered (R42, R43). -/
theorem confirmEntry_spends (i : Idx) (s : State) : Spends s (confirmEntry i s) := by
  have hset {st : EntryState} (hst : st ≠ .offered ∧ st ≠ .reducing) :
      Spends s (s.setEntry i (confirmedEntry s (s.entry i) st)) :=
    setEntry_spends ⟨le_rfl, fun h => absurd h hst.1⟩ fun _ => .of_ne hst.2
  have henabling : Spends s (s.setEntry i (confirmedEntry s (s.entry i) .enabling)) := hset ⟨nofun, nofun⟩
  unfold confirmEntry
  dsimp only
  split
  case h_1 => exact hset (poweredState_ne _)
  case h_2 => exact (gainNeed_spends ..).after henabling
  all_goals exact henabling

theorem takeConfirm_spends (n : Slot) (msg : List Byte) (i : Idx) (s : State) : Spends s (takeConfirm n msg i s) := by
  unfold takeConfirm
  split
  case h_1 => exact (replyEntry_spends ..).after ((confirmEntry_spends ..).after (removeNotice_spends ..))
  all_goals exact wrongState_spends ..

/-- The new held level exceeds the old one by the available raise at most (R87). -/
theorem adjustedLevel_le {r f h avail level : Nat} (hl : adjustedLevel r f h avail = some level) : level ≤ h + avail := by
  unfold adjustedLevel at hl
  split at hl
  · obtain rfl := Option.some.inj hl
    omega
  · split at hl
    · obtain rfl := Option.some.inj hl
      exact Nat.min_le_right ..
    · cases hl

theorem adjustedEntry_state_ne (e : Entry) (r f h : Nat) :
    (adjustedEntry e r f h).state ≠ .offered ∧ (adjustedEntry e r f h).state ≠ .reducing := by
  unfold adjustedEntry
  dsimp only
  split
  · exact ⟨nofun, nofun⟩
  · split <;> exact ⟨nofun, nofun⟩

/-- An ADJUST raises a held level in OPERATING alone, and by the headroom at most (R87). -/
theorem setEntry_adjusted_spends {s : State} {i : Idx} {r f h : Nat}
    (hl : adjustedLevel r f (s.entry i).held (availableRaise s) = some h) :
    Spends s (s.setEntry i (adjustedEntry (s.entry i) r f h)) := by
  obtain ⟨hoffered, hreducing⟩ := adjustedEntry_state_ne (s.entry i) r f h
  have hle : h ≤ (s.entry i).held + availableRaise s := adjustedLevel_le hl
  by_cases hraise : availableRaise s = 0
  · rw [hraise] at hle
    exact setEntry_spends ⟨hle, fun ho => absurd ho hoffered⟩ fun _ => .of_ne hreducing
  · unfold availableRaise at hraise hle
    split at hraise
    · next hop =>
      rw [if_pos hop] at hle
      exact .of_raise (setEntry_only ..) (fun j => entry_setEntry s i j _) hop (covered_of_headroom hraise) hle hreducing
    · exact absurd rfl hraise

theorem adjustPowered_spends (n : Slot) (msg : List Byte) (i : Idx) (s : State) : Spends s (adjustPowered n msg i s) := by
  unfold adjustPowered
  dsimp only
  split
  · exact replyEntry_spends ..
  · next h hl =>
    have hreply (u : State) (x : Nat) (hu : Spends s u) : Spends s (replyEntry n msg .accepted i x u) :=
      (replyEntry_spends ..).after hu
    have hset := (removeNotice_spends n i .restore _).after (setEntry_adjusted_spends hl)
    exact (judgeDeficit_spends _).after (.ite ((rebalance_spends _).after (hreply _ _ hset)) (hreply _ _ hset))

theorem takeAdjust_spends (n : Slot) (msg : List Byte) (i : Idx) (s : State) : Spends s (takeAdjust n msg i s) := by
  unfold takeAdjust
  split
  case h_1 =>
    exact (judgeDeficit_rebalance_spends _).after <| (replyEntry_spends ..).after <| setEntry_spends ⟨le_rfl, id⟩ id
  case h_2 | h_3 | h_4 => exact adjustPowered_spends ..
  all_goals exact wrongState_spends ..

/-- A COMPLY takes the held level down to the target (R70). -/
theorem takeComply_spends (n : Slot) (msg : List Byte) {i : Idx} {s : State} (ht : TargetOk (s.entry i)) :
    Spends s (takeComply n msg i s) := by
  unfold takeComply
  dsimp only
  split
  case h_1 hst =>
    refine .ite (replyEntry_spends ..) ?_
    exact (judgeDeficit_rebalance_spends _).after <| (replyEntry_spends ..).after <| (removeNotice_spends ..).after <|
      setEntry_spends ⟨ht hst, nofun⟩ fun _ => .of_ne nofun
  all_goals exact wrongState_spends ..

theorem takeRenew_spends (n : Slot) (msg : List Byte) (i : Idx) (s : State) : Spends s (takeRenew n msg i s) := by
  refine .ite ?_ (wrongState_spends ..)
  exact (replyEntry_spends ..).after <| (removeNotice_spends ..).after <| setEntry_spends ⟨le_rfl, id⟩ id

theorem takeRelease_spends (n : Slot) (msg : List Byte) (i : Idx) (s : State) : Spends s (takeRelease n msg i s) :=
  (judgeDeficit_rebalance_spends _).after <| (placeReply_spends ..).after (freeEntry_spends i s)

theorem handleQuery_spends (n : Slot) (msg : List Byte) (s : State) : Spends s (handleQuery n msg s) := by
  unfold handleQuery
  split
  · exact refuse_spends ..
  · unfold takeQuery
    split
    · exact refuse_spends ..
    · exact replyEntry_spends ..

theorem handleKind_spends (k : Kind) (n : Slot) (msg : List Byte) {s : State} (ht : TargetsOk s) :
    Spends s (handleKind k n msg s) := by
  cases k with
  | claim => exact handleClaim_spends n msg s
  | confirm => exact onHandle_spends _ n msg fun i => takeConfirm_spends n msg i s
  | adjust => exact onHandle_spends _ n msg fun i => takeAdjust_spends n msg i s
  | comply => exact onHandle_spends _ n msg fun i => takeComply_spends n msg (ht i)
  | renew => exact onHandle_spends _ n msg fun i => takeRenew_spends n msg i s
  | release => exact onHandle_spends _ n msg fun i => takeRelease_spends n msg i s
  | query => exact handleQuery_spends n msg s

theorem handleMessage_spends (n : Slot) (msg : List Byte) {s : State} (ht : TargetsOk s) :
    Spends s (handleMessage n msg s) := by
  unfold handleMessage
  split
  · exact refuse_spends ..
  · split
    · exact refuse_spends ..
    · exact handleKind_spends _ n msg ht

/-! ## The module bus -/

theorem enterBus_spends (b : Bus) (s : State) : Spends s (enterBus b s) := .of_table rfl rfl rfl

theorem deliver_spends (item : StagedItem) (s : State) : Spends s (deliver item s) := by
  cases item with
  | nothing => exact .refl s
  | reply n id =>
    unfold deliver deliverReply
    dsimp only
    split
    · exact .refl s
    · exact .ite (setOutbox_spends ..) (.refl s)
  | notice n id =>
    unfold deliver deliverNotice
    dsimp only
    split
    · exact .refl s
    · have hkeep : Spends s (keepNotices n (fun y => y.id != id) s) := setOutbox_spends ..
      exact .ite (hkeep.trans (freeEntry_spends ..)) hkeep

theorem endInFlight_spends {s : State} (ht : TargetsOk s) : Spends s (endInFlight s) := by
  unfold endInFlight
  split
  · unfold takeWrite
    split
    · exact handleMessage_spends _ _ ht
    all_goals exact .refl s
  · exact .ite (deliver_spends ..) (.refl s)
  all_goals exact .refl s

theorem endTransaction_spends (e : BusEnd) {s : State} (ht : TargetsOk s) : Spends s (endTransaction e s) :=
  (enterBus_spends ..).after (endInFlight_spends ht)

/-- A write row: what its START ends, and then its own message. -/
theorem writeMessage_spends (n : Slot) (bytes : List Byte) {handler : State → State} (e : BusEnd) {s : State}
    (ht : TargetsOk s) (hh : ∀ t, TargetsOk t → Spends t (handler t)) : Spends s (writeMessage n bytes handler e s) := by
  have hstart : Spends s (startSeen s) := endTransaction_spends .restart ht
  refine .unlessReset ((enterBus_spends ..).after (hstart.trans (.ite ?_ (.refl _))))
  split
  · exact hh _ (hstart.targets ht)
  all_goals exact .refl _

end Sys2Proof.Machine
end

section
/-! PROOFS. No level rises without budget (R38), concluded: the slots, the supply, the host's commands and the pins. -/

namespace Sys2Proof.Machine

/-! ## Slot Power Control -/

theorem emptyOfModule_spends (n : Slot) (s : State) : Spends s (emptyOfModule n s) :=
  .ite (setSlot_spends ..) ((leaveInrush_spends ..).after (setSlot_spends ..))

theorem removeModule_spends (n : Slot) (s : State) : Spends s (removeModule n s) :=
  (judgeDeficit_rebalance_spends _).after <| (raise_spends ..).after <| (setOutbox_spends ..).after <|
    (freeAll_spends ..).after (emptyOfModule_spends n s)

/-- A turn-on leaves every held level as it was (R153). -/
theorem energize_spends (n : Slot) (s : State) : Spends s (energize n s) := by
  refine .foldl _ (fun t i => ?_) _ s
  obtain ⟨hoffered, hreducing⟩ := poweredState_ne (t.entry i)
  exact setEntry_spends ⟨le_rfl, fun h => absurd h hoffered⟩ fun _ => .of_ne hreducing

theorem turnOnSlot_spends (n : Slot) (s : State) : Spends s (turnOnSlot n s) := by
  have henergized (t : State) : Spends t { energize n t with lastOn := some (ticks s) } :=
    (energize_spends n t).trans (.of_table rfl rfl rfl)
  exact (henergized _).after ((leaveInrush_spends ..).after (setSlot_spends ..))

theorem tripSlot_spends (n : Slot) (s : State) : Spends s (tripSlot n s) := by
  have htrip := (raise_spends .slotTrip _).after <| (retireSlot_spends .fault n _).after <|
    setSlot_spends n (trippedSlot s (s.slotRec n)) s
  exact (judgeDeficit_rebalance_spends _).after (.ite ((raise_spends ..).after htrip) htrip)

theorem cutRec_spends (n : Slot) (s : State) : Spends s (cutRec n s) := by
  unfold cutRec
  split
  case h_1 | h_2 | h_3 => exact unpowerSlot_spends ..
  all_goals exact .refl s

theorem cutSlot_spends (n : Slot) (s : State) : Spends s (cutSlot n s) :=
  (judgeDeficit_rebalance_spends _).after <| (raise_spends ..).after <| (cutRec_spends ..).after (retireSlot_spends ..)

theorem blockSlot_spends (n : Slot) (s : State) : Spends s (blockSlot n s) :=
  .ite (.refl s) <| (judgeDeficit_rebalance_spends _).after <| (raise_spends ..).after <|
    (retireSlot_spends ..).after <| (leaveInrush_spends ..).after (setSlot_spends ..)

theorem unblockSlot_spends (n : Slot) (s : State) : Spends s (unblockSlot n s) :=
  .ite (setSlot_spends ..) (.refl s)

/-- A retirement that is followed by a rebalance. -/
theorem retireWith_rebalance_spends (c : Option Cause) (i : Idx) (s : State) :
    Spends s (judgeDeficit (rebalance (retireWith c i s))) :=
  (retireWith_spends c i s).trans (judgeDeficit_rebalance_spends _)

/-! ## The supply -/

theorem enterHold_within (s : State) : WithinBudget s (enterHold s) := by
  have hset : NoRise s { s with supply := .hold, holdTimer := some (expiryAfter s (duration s .holdlim)) } :=
    .of_table rfl
  exact hset.then_within ((raise_spends ..).after (suspendAll_spends _)).within

theorem enterLost_within (s : State) : WithinBudget s (enterLost s) := by
  have hset : NoRise s { s with supply := .lost, holdTimer := none, capacity := 0 } := .of_table rfl
  exact hset.then_within ((judgeDeficit_spends _).after ((raise_spends ..).after (retireAll_spends ..))).within

theorem enterOperating_within (b : Band) (s : State) : WithinBudget s (enterOperating b s) := by
  have hset : NoRise s { s with supply := .operating, holdTimer := none } := .of_table rfl
  exact (hset.then_within (recompute_within ..)).then_spends <|
    (judgeDeficit_spends _).after <| (raise_spends ..).after (restartAll_spends _)

theorem bandQualified_within (b : Band) (s : State) : WithinBudget s (bandQualified b s) := by
  unfold bandQualified
  split
  · exact .ite (enterLost_within s) (enterOperating_within b s)
  · exact .ite (enterHold_within s) ((recompute_within ..).then_spends (judgeDeficit_spends _))
  all_goals exact .ite (.refl s) (enterOperating_within b s)

/-! ## The host's commands -/

theorem complete_spends (code : Byte) (r : Result) (v : Nat) (s : State) : Spends s (complete code r v s) :=
  .of_table rfl rfl rfl

theorem onSlot_spends (code : Byte) {act : Slot → State → State} (h : ∀ n s, Spends s (act n s)) (s : State) :
    Spends s (onSlot code act s) := by
  unfold onSlot
  split
  · exact complete_spends ..
  · exact (complete_spends ..).after (h _ s)

theorem hostLookup_spends (s : State) : Spends s (hostLookup s) := by
  unfold hostLookup
  split <;> exact .of_table rfl rfl rfl

theorem hostFind_spends (s : State) : Spends s (hostFind s) := by
  unfold hostFind
  split
  · split <;> exact complete_spends ..
  all_goals exact complete_spends ..

theorem retireNamed_spends (i : Idx) (s : State) : Spends s (retireNamed i s) := by
  unfold retireNamed
  split
  case h_1 => exact .refl s
  case h_2 => exact (judgeDeficit_spends _).after (retireWith_spends ..)
  case h_3 | h_4 => exact retireWith_rebalance_spends ..
  case h_8 => exact setEntry_spends ⟨le_rfl, id⟩ id
  case h_9 => exact freeEntry_spends i s
  all_goals exact revokeEntry_spends .host i s

theorem hostRetire_spends (s : State) : Spends s (hostRetire s) := by
  unfold hostRetire
  refine .ite (complete_spends ..) ?_
  split
  · exact complete_spends ..
  · exact (complete_spends ..).after (retireNamed_spends _ s)

theorem hostPurge_spends (s : State) : Spends s (hostPurge s) := by
  have hcontracts : Spends s (purgeContracts s) := (freeAll_spends _ s).trans (.of_table rfl rfl rfl)
  exact (complete_spends ..).after <| (judgeDeficit_spends _).after <| (purgeSlots_spends _).after hcontracts

theorem clearTripsOf_spends (n : Slot) (s : State) : Spends s (clearTripsOf n s) := setSlot_spends ..

theorem bringIntoForce_within (s : State) : WithinBudget s (bringIntoForce s) := by
  have hset : NoRise s { s with active := s.staged } := .of_table rfl
  unfold bringIntoForce
  dsimp only
  split
  case h_1 => exact (hset.then_within (recompute_within ..)).then_spends (judgeDeficit_spends _)
  all_goals exact .inl hset

theorem hostApply_within (s : State) : WithinBudget s (hostApply s) := by
  unfold hostApply
  split
  · exact (complete_spends ..).within
  · exact (bringIntoForce_within s).then_spends (complete_spends ..)

theorem runCommand_within (code : Byte) (s : State) : WithinBudget s (runCommand code s) := by
  unfold runCommand
  exact .ite (hostLookup_spends s).within <| .ite (hostFind_spends s).within <| .ite (hostRetire_spends s).within <|
    .ite (hostPurge_spends s).within <| .ite (onSlot_spends _ blockSlot_spends s).within <|
    .ite (onSlot_spends _ unblockSlot_spends s).within <| .ite (onSlot_spends _ clearTripsOf_spends s).within <|
    .ite (hostApply_within s) (complete_spends ..).within

theorem writeRegister_within (r : BitVec 7) (v : Word) (s : State) : WithinBudget s (writeRegister r v s) := by
  have hreg {t : State} (h : t.table = s.table) : WithinBudget s t := .inl (.of_table h)
  unfold writeRegister
  split
  · exact hreg rfl
  · exact .ite (hreg rfl) <| .ite (hreg rfl) <| .ite (hreg rfl) <| .ite (hreg rfl) <|
      .ite (runCommand_within ..) (.refl s)

/-! ## Commands -/

/-- The state a command leaves is the one it gives. -/
theorem WithinBudget.of_next {s t u : State} (ht : (.next u : Host.Outcome State Fault Refusal) = .next t)
    (h : WithinBudget s u) : WithinBudget s t :=
  Host.Outcome.next.inj ht ▸ h

/-- A command whose meaning is an operation taken where its condition holds. -/
theorem Spends.next_ite {p : Prop} [Decidable p] {s t u : State}
    (ht : (.next (if p then u else s) : Host.Outcome State Fault Refusal) = .next t) (h : Spends s u) :
    WithinBudget s t :=
  .of_next ht (.ite h.within (.refl s))

/-- A command that is taken unless RSTn is held low. -/
theorem WithinBudget.next_unlessReset {f : State → State} {s t : State}
    (ht : (.next (Machine.unlessReset f s) : Host.Outcome State Fault Refusal) = .next t) (h : WithinBudget s (f s)) :
    WithinBudget s t :=
  .of_next ht h.unlessReset

theorem execReadEnd_within {s t : State} (hs : TargetsOk s) (acks : List Bool) (e : BusEnd)
    (ht : execReadEnd acks e s = .next t) : WithinBudget s t := by
  have hset : Spends s { s with bus := transferred acks s.bus } := .of_table rfl rfl rfl
  exact .next_unlessReset ht (hset.trans (endTransaction_spends e (hset.targets hs))).within

theorem considerBand_spends (b : Band) (s : State) : Spends s (considerBand b s) :=
  .ite (.of_table rfl rfl rfl) (.ite (.refl s) (.of_table rfl rfl rfl))

theorem execRailSample_within {s t : State} (code : BitVec 10) (ht : execRailSample code s = .next t) :
    WithinBudget s t := by
  have hset : Spends s { s with railCode := code, sampled := bandOf s code } := .of_table rfl rfl rfl
  exact .next_unlessReset ht (hset.trans (considerBand_spends ..)).within

theorem execQualificationTimerExpiry_within {s t : State} (ht : execQualificationTimerExpiry s = .next t) :
    WithinBudget s t := by
  unfold execQualificationTimerExpiry at ht
  split at ht
  · exact .of_next ht (.refl s)
  · next b _ =>
    have hset : NoRise s (raise .bandChange { s with qualified := some b, candidate := none, qualTimer := none }) :=
      .of_table rfl
    exact .of_next ht (.ite (hset.then_within (bandQualified_within ..)) (.refl s))

theorem execPresenceSample_within {s t : State} (n : Slot) (high : Bool) (ht : execPresenceSample n high s = .next t) :
    WithinBudget s t :=
  .next_unlessReset ht <| .inl <| .ite (.of_table rfl) (.ite (.refl s) (.of_table rfl))

theorem execPresenceTimerExpiry_within {s t : State} (n : Slot) (ht : execPresenceTimerExpiry n s = .next t) :
    WithinBudget s t := by
  have hinsert : Spends s (insertModule n s) := .of_table rfl rfl rfl
  exact Spends.next_ite ht (.ite (removeModule_spends n s) hinsert)

theorem execFaultSample_within {s t : State} (n : Slot) (high : Bool) (ht : execFaultSample n high s = .next t) :
    WithinBudget s t :=
  .next_unlessReset ht <| .inl <| .ite (.ite (.ite (.refl s) (.of_table rfl)) (.of_table rfl)) (.refl s)

theorem execTurnOn_within {s t : State} (ht : execTurnOn s = .next t) : WithinBudget s t := by
  unfold execTurnOn at ht
  split at ht
  · exact .of_next ht (.refl s)
  · exact (turnOnSlot_spends ..).next_ite ht

/-- The warned mark and a LEASE_WARN notice move no level (R92). -/
theorem execWarningPoint_within {s t : State} (i : Idx) (ht : execWarningPoint i s = .next t) : WithinBudget s t := by
  have hmark : Spends s (s.setEntry i { s.entry i with
      period := (s.entry i).period.map fun p => { p with warned := true } }) := setEntry_spends ⟨le_rfl, id⟩ id
  exact Spends.next_ite ht (.ite hmark (hmark.trans (.of_table rfl rfl rfl)))

theorem execDeliveryLimitExpiry_within {s t : State} (i : Idx) (ht : execDeliveryLimitExpiry i s = .next t) :
    WithinBudget s t :=
  Spends.next_ite ht <| (judgeDeficit_rebalance_spends _).after <| (raise_spends ..).after (freeEntry_spends i s)

/-- A reset leaves every entry FREE with nothing held. -/
theorem endReset_noRise (k : BitVec 3) (s : State) : NoRise s (endReset k s) := by
  intro i
  rw [endReset_entry]
  exact .of_zero rfl nofun

theorem beginReset_noRise (s : State) : NoRise s (beginReset s) := by
  intro i
  rw [beginReset_entry]
  exact .of_zero rfl nofun

theorem exec_within {c : Instr} {s t : State} (hs : TargetsOk s) (ht : exec c s = .next t) : WithinBudget s t := by
  have hwrite (k : Kind) (n : Slot) (body : List Byte) (e : BusEnd)
      (hk : exec (kindCommand k n body e) s = .next t) : WithinBudget s t := by
    rw [exec_kindCommand] at hk
    exact .of_next hk (writeMessage_spends n _ e hs fun _ => handleKind_spends k n _).within
  have hstart : Spends s (startSeen s) := endTransaction_spends .restart hs
  cases c with
  | claim n body e => exact hwrite .claim n body e ht
  | confirm n body e => exact hwrite .confirm n body e ht
  | adjust n body e => exact hwrite .adjust n body e ht
  | comply n body e => exact hwrite .comply n body e ht
  | renew n body e => exact hwrite .renew n body e ht
  | release n body e => exact hwrite .release n body e ht
  | query n body e => exact hwrite .query n body e ht
  | refusedMessage n msg e => exact .of_next ht (writeMessage_spends n msg e hs fun _ => handleMessage_spends n msg).within
  | writeDiscarded n why e => exact .next_unlessReset ht (hstart.trans (enterBus_spends ..)).within
  | readStaging a => exact .next_unlessReset ht (hstart.trans (enterBus_spends ..)).within
  | readEnd acks e => exact execReadEnd_within hs acks e ht
  | stallTimerExpiry tick => exact Spends.next_ite ht ((raise_spends ..).after (enterBus_spends ..))
  | railSample code => exact execRailSample_within code ht
  | qualificationTimerExpiry => exact execQualificationTimerExpiry_within ht
  | holdTimerExpiry => exact .of_next ht (.ite (enterLost_within s) (.refl s))
  | presenceSample n high => exact execPresenceSample_within n high ht
  | presenceTimerExpiry n => exact execPresenceTimerExpiry_within n ht
  | faultSample n high => exact execFaultSample_within n high ht
  | blankingTimerExpiry n => exact Spends.next_ite ht (.of_table rfl rfl rfl)
  | trip n => exact (tripSlot_spends n s).next_ite ht
  | cooldownExpiry n => exact Spends.next_ite ht (.of_table rfl rfl rfl)
  | stableTimerExpiry n => exact Spends.next_ite ht (.of_table rfl rfl rfl)
  | turnOn => exact execTurnOn_within ht
  | offerWindowExpiry i => exact (retireWith_rebalance_spends _ i s).next_ite ht
  | reduceGraceExpiry i => exact (cutSlot_spends _ s).next_ite ht
  | revokeGraceExpiry i => exact Spends.next_ite ht (.ite (cutSlot_spends ..) (retireWith_rebalance_spends ..))
  | leaseExpiry i => exact Spends.next_ite ht (.ite (retireWith_rebalance_spends ..) (revokeEntry_spends ..))
  | warningPoint i => exact execWarningPoint_within i ht
  | deliveryLimitExpiry i => exact execDeliveryLimitExpiry_within i ht
  | lookup => exact .next_unlessReset ht (hostLookup_spends s).within
  | find => exact .next_unlessReset ht (hostFind_spends s).within
  | retire => exact .next_unlessReset ht (hostRetire_spends s).within
  | purge => exact .next_unlessReset ht (hostPurge_spends s).within
  | block => exact .next_unlessReset ht (onSlot_spends _ blockSlot_spends s).within
  | unblock => exact .next_unlessReset ht (onSlot_spends _ unblockSlot_spends s).within
  | clearTrips => exact .next_unlessReset ht (onSlot_spends _ clearTripsOf_spends s).within
  | apply => exact .next_unlessReset ht (hostApply_within s)
  | unknownCommand code => exact .next_unlessReset ht (runCommand_within code s)
  | eventsWrite v => exact .next_unlessReset ht (.inl (.of_table rfl))
  | evmaskWrite v => exact .next_unlessReset ht (.inl (.of_table rfl))
  | registerWrite r v => exact .next_unlessReset ht (writeRegister_within r v s)
  | deviceReset k => exact .of_next ht (.inl (endReset_noRise k s))

/-! ## Changes of the pins -/

theorem moveSda_within {s : State} (hs : TargetsOk s) (high : Bool) : WithinBudget s (moveSda high s) := by
  have hset : Spends s { s with pins := { s.pins with sda := high } } := .of_table rfl rfl rfl
  have hend (e : BusEnd) := (hset.trans (endTransaction_spends e (hset.targets hs))).within
  rcases moveSda_cases high s with h | h | h <;> rw [h]
  · exact hend .restart
  · exact hend .stop
  · exact hset.within

theorem moveCsn_within (high : Bool) (s : State) : WithinBudget s (moveCsn high s) := by
  have hset : NoRise s { s with pins := { s.pins with csn := true }, frame := .closed } := .of_table rfl
  refine .ite (.refl s) (.ite ?_ (.inl (.of_table rfl)))
  rcases endFrame_cases s.frame { s with pins := { s.pins with csn := true }, frame := .closed } with ⟨r, v, h⟩ | h <;>
    rw [h]
  · exact hset.then_within (writeRegister_within ..)
  · exact .inl hset

theorem takeWireInReset_within (w : Wire) (s : State) : WithinBudget s (takeWireInReset w s) := by
  cases w with
  | rstnHigh k => exact .inl (endReset_noRise k s)
  | _ => exact .inl (.of_table rfl)

theorem takeWireRunning_within {s : State} (hs : TargetsOk s) (w : Wire) : WithinBudget s (takeWireRunning w s) := by
  cases w with
  | scl high => exact .inl (.of_table (by rw [takeWireRunning, moveScl_eq]))
  | sda high => exact moveSda_within hs high
  | csn high => exact moveCsn_within high s
  | sck high => exact .inl (.of_table (by rw [takeWireRunning, moveSck_eq]))
  | sdi high => exact .inl (.of_table rfl)
  | rstnLow => exact .inl (beginReset_noRise s)
  | rstnHigh k => exact .refl s

theorem takeWire_within {s : State} (hs : TargetsOk s) (w : Wire) : WithinBudget s (takeWire w s) :=
  .ite (takeWireInReset_within w s) (takeWireRunning_within hs w)

/-- Settles O51: a level rises, and an entry enters OFFERED, by a claim offered at once, a rebalance or an ADJUST alone, each in
OPERATING and by the headroom at most; what follows in the same event keeps the supply state and C, and H within C. -/
theorem noLevelRisesWithoutBudget : Obligations.NoLevelRisesWithoutBudget := by
  intro s t hi hevent hbudget
  have hs := hi.entries.targetsOk
  have hwithin : WithinBudget s t := by
    rcases hevent with ⟨c, hc⟩ | ⟨w, rfl⟩
    · exact exec_within hs hc
    · exact takeWire_within hs w
  rcases hwithin with hfall | ⟨hop, hle⟩
  · exact hfall
  · rcases hbudget with hout | hover
    · exact absurd hop hout
    · exact absurd hle hover.not_ge

end Sys2Proof.Machine
end

section
/-! PROOFS. Shedding and enforcement (chapter 4): the expiries of a grace (O33). -/

namespace Sys2Proof.Machine

/-! ## The slot's side of a cut (R159) -/

theorem cutRec_powered {n : Slot} {s : State}
    (h : (s.slotRec n).state = .on ∨ (s.slotRec n).state = .queued ∨ (s.slotRec n).state = .suspended) :
    cutRec n s = unpowerSlot n .idle s := by
  unfold cutRec
  rcases h with h | h | h <;> rw [h]

theorem cutRec_unpowered {n : Slot} {s : State} (h1 : (s.slotRec n).state ≠ .on) (h2 : (s.slotRec n).state ≠ .queued)
    (h3 : (s.slotRec n).state ≠ .suspended) : cutRec n s = s := by
  unfold cutRec
  split
  case h_1 h => exact absurd h h1
  case h_2 h => exact absurd h h2
  case h_3 h => exact absurd h h3
  all_goals rfl

/-- A cut of a slot's record touches the slots and the Inrush Queue alone. -/
theorem cutRec_eq (n : Slot) (s : State) :
    cutRec n s = { s with slots := (cutRec n s).slots, inrush := (cutRec n s).inrush } := by
  unfold cutRec
  split <;> rfl

@[simp] theorem cutRec_table (n : Slot) (s : State) : (cutRec n s).table = s.table := by rw [cutRec_eq]
@[simp] theorem cutRec_outboxes (n : Slot) (s : State) : (cutRec n s).outboxes = s.outboxes := by rw [cutRec_eq]
@[simp] theorem cutRec_waitQueue (n : Slot) (s : State) : (cutRec n s).waitQueue = s.waitQueue := by rw [cutRec_eq]
@[simp] theorem cutRec_admission (n : Slot) (s : State) : (cutRec n s).admission = s.admission := by rw [cutRec_eq]

theorem cutRec_slotRec_ne {n m : Slot} (h : m ≠ n) (s : State) : (cutRec n s).slotRec m = s.slotRec m := by
  unfold cutRec
  split
  case h_1 | h_2 | h_3 => exact unpowerSlot_slotRec_ne h .idle s
  all_goals rfl

/-- What a cut makes of the slots depends on the slots and the Inrush Queue alone. -/
theorem cutRec_slots_congr {s t : State} (n : Slot) (hslots : t.slots = s.slots) (hinrush : t.inrush = s.inrush) :
    (cutRec n t).slots = (cutRec n s).slots ∧ (cutRec n t).inrush = (cutRec n s).inrush := by
  have hrec := slotRec_of_slots hslots n
  unfold cutRec
  rw [hrec]
  split
  case h_1 | h_2 | h_3 => simp only [unpowerSlot, leaveInrush, State.setSlot, hrec, hslots, hinrush, and_self]
  all_goals exact ⟨hslots, hinrush⟩

@[simp] theorem raise_inrush (e : Event) (s : State) : (raise e s).inrush = s.inrush := rfl

theorem raise_slotCut_events (s : State) : (raise .slotCut s).events = s.events ||| 0x040 := rfl

/-! ## A cut does not depend on when its slot lost its need

The retirements of a cut may already take the slot's power, by the judging of its need (R150). A cut leaves the slot in the
same state as that judging does, so the slots end as if it were cut at once. -/

theorem cutRec_judgeNeed (n : Slot) (s : State) : cutRec n (judgeNeed n s) = cutRec n s := by
  by_cases hgone : needGone s n
  · have hpowered : (s.slotRec n).state = .on ∨ (s.slotRec n).state = .queued ∨ (s.slotRec n).state = .suspended :=
      hgone.imp And.left And.left
    rw [judgeNeed_gone hgone, cutRec_powered hpowered]
    apply cutRec_unpowered <;> simp
  · rw [judgeNeed_kept hgone]

theorem cutRec_tellNeed (e : Entry) (s : State) : cutRec e.slot (tellNeed e s) = cutRec e.slot s := by
  unfold tellNeed
  split
  · exact cutRec_judgeNeed ..
  · rfl

theorem cutRec_retireEntry (c : Cause) (i : Idx) (s : State) :
    (cutRec (s.entry i).slot (retireEntry c i s)).slots = (cutRec (s.entry i).slot s).slots
    ∧ (cutRec (s.entry i).slot (retireEntry c i s)).inrush = (cutRec (s.entry i).slot s).inrush := by
  rw [retireEntry, retireWith, cutRec_tellNeed]
  exact cutRec_slots_congr _ rfl rfl

theorem retireEntry_slot (c : Cause) (i j : Idx) (s : State) : ((retireEntry c i s).entry j).slot = (s.entry j).slot := by
  rw [retireEntry, retireWith_entry]
  split
  · next h => rw [h]
  · rfl

theorem cutRec_retireAll (c : Cause) (n : Slot) (l : List Idx) (s : State) (hl : ∀ i ∈ l, (s.entry i).slot = n) :
    (cutRec n (retireAll c l s)).slots = (cutRec n s).slots
    ∧ (cutRec n (retireAll c l s)).inrush = (cutRec n s).inrush := by
  induction l generalizing s with
  | nil => exact ⟨rfl, rfl⟩
  | cons i l ih =>
    obtain ⟨hi, hl⟩ := List.forall_mem_cons.mp hl
    obtain ⟨hslots, hinrush⟩ := ih (retireEntry c i s) fun j hj => (retireEntry_slot c i j s).trans (hl j hj)
    obtain ⟨hslots', hinrush'⟩ := cutRec_retireEntry c i s
    rw [hi] at hslots' hinrush'
    exact ⟨hslots.trans hslots', hinrush.trans hinrush'⟩

theorem cutRec_retireSlot (c : Cause) (n : Slot) (s : State) :
    (cutRec n (retireSlot c n s)).slots = (cutRec n s).slots
    ∧ (cutRec n (retireSlot c n s)).inrush = (cutRec n s).inrush := by
  refine cutRec_retireAll c n _ s fun i hi => ?_
  obtain ⟨-, hslot, -⟩ := (ofSlotIn_iff n isStanding _).mp ((mem_entriesWhere s _ i).mp hi)
  exact hslot

/-! ## When a grace expires -/

theorem deadlineDue_iff (s : State) (i : Idx) (st : EntryState) :
    deadlineDue s i st = true ↔ (s.entry i).state = st ∧ due s (s.entry i).deadline = true := by
  simp only [deadlineDue, Bool.and_eq_true, beq_iff_eq]

theorem otherLive_iff (s : State) (i : Idx) :
    otherLive s i = true ↔ ∃ j : Idx, j ≠ i ∧ (s.entry j).slot = (s.entry i).slot ∧ isLive (s.entry j).state = true := by
  simp only [otherLive, List.any_eq_true, mem_allIdx, true_and, Bool.and_eq_true, bne_iff_ne, ofSlotIn_iff]
  exact exists_congr fun j => and_congr_right fun _ => ⟨And.right, fun h => ⟨isLive_ne_free h.2, h⟩⟩

theorem exec_reduceGraceExpiry_due {i : Idx} {s : State} (hst : (s.entry i).state = .reducing)
    (hdue : due s (s.entry i).deadline = true) :
    exec (.reduceGraceExpiry i) s = .next (cutSlot (s.entry i).slot s) := by
  change execReduceGraceExpiry i s = _
  rw [execReduceGraceExpiry, if_pos ((deadlineDue_iff s i _).mpr ⟨hst, hdue⟩)]

theorem exec_revokeGraceExpiry_due {i : Idx} {s : State} (hst : (s.entry i).state = .revoking)
    (hdue : due s (s.entry i).deadline = true) :
    exec (.revokeGraceExpiry i) s = .next (if otherLive s i then cutSlot (s.entry i).slot s
      else judgeDeficit (rebalance (retireWith (s.entry i).cause i s))) := by
  change execRevokeGraceExpiry i s = _
  rw [execRevokeGraceExpiry, if_pos ((deadlineDue_iff s i _).mpr ⟨hst, hdue⟩)]

/-- Settles O33: every cut passes through the state that the retirement of the slot's entries and the cut of its record leave,
whose slots are those of a cut made at once. -/
theorem graceExpiries : Obligations.GraceExpiries := by
  intro i s hdue n cut
  have hcut (c : Instr) (hc : exec c s = .next (cutSlot n s)) : cut c := by
    have honly := (retireSlot_only .enforced n s).trans (cutRec_only n _)
    obtain ⟨hslots, hinrush⟩ := cutRec_retireSlot .enforced n s
    refine ⟨raise .slotCut (cutRec n (retireSlot .enforced n s)), hc, honly.decisions.trans (raise_only ..), honly.deficit,
      ?_, cutRec_table .., cutRec_outboxes .., cutRec_waitQueue .., cutRec_admission .., fun m hm => ?_,
      fun hpowered => ?_, fun hon hqueued hsuspended => ?_⟩
    · rw [raise_slotCut_events, honly.events]
    · rw [raise_slotRec, slotRec_of_slots hslots, cutRec_slotRec_ne hm]
    · rw [cutRec_powered hpowered] at hslots hinrush
      rw [raise_slotRec, raise_inrush, slotRec_of_slots hslots, unpowerSlot_slotRec_same]
      exact ⟨rfl, hinrush⟩
    · rw [cutRec_unpowered hon hqueued hsuspended] at hslots hinrush
      rw [raise_slotRec, raise_inrush, slotRec_of_slots hslots]
      exact ⟨rfl, hinrush⟩
  refine ⟨fun hst => hcut _ (exec_reduceGraceExpiry_due hst hdue), fun hst hother => hcut _ ?_, fun hst hnone => ?_⟩
  · rw [exec_revokeGraceExpiry_due hst hdue, if_pos ((otherLive_iff s i).mpr hother)]
  · have hsole : ¬ otherLive s i = true := by
      rw [otherLive_iff]
      rintro ⟨j, hj, hslot, hlive⟩
      exact Bool.false_ne_true ((hnone j hj hslot).symm.trans hlive)
    rw [exec_revokeGraceExpiry_due hst hdue, if_neg hsole]

end Sys2Proof.Machine
end

section
/-! PROOFS. Adjustment and release (chapters 2 and 5): what an ADJUST (O13) and a RELEASE (O16) do to the entry they name. -/

namespace Sys2Proof.Machine

/-! ## Messages that name an entry -/

/-- A message that passes the validation order and names an entry is taken by the rules of its kind on that entry (R120). -/
theorem exec_kindCommand_reaches {k : Kind} {n : Slot} {body : List Byte} {u s : State} {i : Idx}
    {act : Idx → State → State}
    (hk : handleKind k n (kindByte k :: body) s = onHandle k n (kindByte k :: body) act s) (hs : startSeen u = s)
    (hp : Passes s k n (kindByte k :: body)) (hn : NamesEntry s n (kindByte k :: body) i) (e : BusEnd) :
    exec (kindCommand k n body e) u = .next (enterBus (afterEnd e) (act i s)) := by
  rw [exec_kindCommand_passes hs hp, hk, onHandle_reaches act hp hn]

/-! ## The table of R87 -/

theorem adjustedLevel_lowered {r h : Nat} (hr : r < h) (f avail : Nat) : adjustedLevel r f h avail = some r := by
  rw [adjustedLevel, if_pos hr]

theorem adjustedLevel_raised {r f h avail : Nat} (hr : h ≤ r) (hf : f ≤ h + avail) :
    adjustedLevel r f h avail = some (min r (h + avail)) := by
  have hfits : f ≤ h ∨ f - h ≤ avail := by omega
  rw [adjustedLevel, if_neg (not_lt.mpr hr), if_pos hfits]

theorem adjustedLevel_refused {r f h avail : Nat} (hfr : f ≤ r) (hf : h + avail < f) : adjustedLevel r f h avail = none := by
  have hr : ¬ r < h := by omega
  have hfits : ¬ (f ≤ h ∨ f - h ≤ avail) := by omega
  rw [adjustedLevel, if_neg hr, if_neg hfits]

/-- The floor of an ADJUST that passes step 4 is no higher than its requested level (Table 7-5). -/
theorem adjustFloor_le_adjustRequested {msg : List Byte} (h : fieldsInRange .adjust msg = true) :
    adjustFloor msg ≤ adjustRequested msg := by
  obtain ⟨-, -, -, hle⟩ := of_decide_eq_true (show levelsInRange (adjustRequested msg) (adjustFloor msg) = true from h)
  exact hle

/-! ## ADJUST by the entry's state (R86 to R89) -/

/-- A WAITING entry holds nothing, and its place in the Wait Queue is not touched before the reply (R86). -/
theorem takeAdjust_waiting {s : State} {i : Idx} (hst : (s.entry i).state = .waiting) (hheld : (s.entry i).held = 0)
    (n : Slot) (msg : List Byte) :
    takeAdjust n msg i s = judgeDeficit (rebalance
      (placeReply n (byteAt msg 0) .accepted (some i) (s.entry i).gen .waiting 0 (waitingAhead s i)
        (s.setEntry i { s.entry i with requested := adjustRequested msg, floor := adjustFloor msg }))) := by
  simp only [takeAdjust, hst, adjustWaiting, replyEntry, entry_setEntry_same, hheld]
  rfl

theorem takeAdjust_powered {s : State} {i : Idx}
    (hst : (s.entry i).state = .enabling ∨ (s.entry i).state = .active ∨ (s.entry i).state = .reduced)
    (n : Slot) (msg : List Byte) : takeAdjust n msg i s = adjustPowered n msg i s := by
  rcases hst with hst | hst | hst <;> simp only [takeAdjust, hst]

/-- The entry has taken the level with its RESTORE notice removed, and the reply shows it as it then stands (R88). -/
def adjustedAndAnswered (n : Slot) (msg : List Byte) (i : Idx) (level : Nat) (s : State) : State :=
  let x := adjustedEntry (s.entry i) (adjustRequested msg) (adjustFloor msg) level
  placeReply n (byteAt msg 0) .accepted (some i) x.gen x.state level (leaseLeft s (s.entry i))
    (removeNotice n i .restore (s.setEntry i x))

/-- A level that the table of R87 gives is taken, and a rebalance follows the reply where the level fell (R88). -/
theorem adjustPowered_accepted {n : Slot} {msg : List Byte} {i : Idx} {s : State} {level : Nat}
    (h : adjustedLevel (adjustRequested msg) (adjustFloor msg) (s.entry i).held (availableRaise s) = some level) :
    adjustPowered n msg i s = judgeDeficit
      (if level < (s.entry i).held then rebalance (adjustedAndAnswered n msg i level s)
        else adjustedAndAnswered n msg i level s) := by
  simp only [adjustPowered, h, replyEntry, removeNotice_entry, entry_setEntry_same]
  rfl

theorem adjustPowered_refused {n : Slot} {msg : List Byte} {i : Idx} {s : State}
    (h : adjustedLevel (adjustRequested msg) (adjustFloor msg) (s.entry i).held (availableRaise s) = none) :
    adjustPowered n msg i s = replyEntry n msg .noHeadroom i (availableRaise s) s := by
  simp only [adjustPowered, h]

/-- Settles O13: a WAITING entry is answered at once; for the others the three rows of R87 give a lower level, one that did
not fall, or none, the last because a floor out of reach is never above the requested level. -/
theorem adjustByState : Obligations.AdjustByState := by
  intro n body e u s i hs hp hn
  have hreach : exec (.adjust n body e) u
      = .next (enterBus (afterEnd e) (takeAdjust n (kindByte .adjust :: body) i s)) :=
    exec_kindCommand_reaches rfl hs hp hn e
  refine ⟨fun hst hok => ?waiting, fun hst hr => ?lowered, fun hst hr hf => ?raised, fun hst hf => ?refused⟩
  case waiting =>
    obtain ⟨-, -, -, hnothing, -⟩ := hok
    have hheld : (s.entry i).held = 0 := hnothing (by rw [hst]; rfl)
    rw [hreach, takeAdjust_waiting hst hheld]
    rfl
  case lowered =>
    rw [hreach, takeAdjust_powered hst, adjustPowered_accepted (adjustedLevel_lowered hr _ _), if_pos hr]
    rfl
  case raised =>
    have hkept : (s.entry i).held ≤ min (adjustRequested (kindByte .adjust :: body)) ((s.entry i).held + availableRaise s) :=
      le_min hr (Nat.le_add_right ..)
    rw [hreach, takeAdjust_powered hst, adjustPowered_accepted (adjustedLevel_raised hr hf), if_neg (not_lt.mpr hkept)]
    rfl
  case refused =>
    have hfr := adjustFloor_le_adjustRequested hp.fields
    rw [hreach, takeAdjust_powered hst, adjustPowered_refused (adjustedLevel_refused hfr hf)]
    rfl

/-! ## RELEASE (R97) -/

theorem releaseExtra_withdrawn {e : Entry} (h : e.state = .revoking ∨ e.state = .retired) :
    releaseExtra e = causeCodeOf e.cause := by
  rcases h with h | h <;> simp only [releaseExtra, h]

theorem releaseExtra_standing {e : Entry} (h1 : e.state ≠ .revoking) (h2 : e.state ≠ .retired) : releaseExtra e = 0 := by
  unfold releaseExtra
  split
  case h_1 h => exact absurd h h1
  case h_2 h => exact absurd h h2
  all_goals rfl

/-- Settles O16: the rules of RELEASE do not ask for the entry's state but in the extra field of the reply. -/
theorem releaseFreesTheEntry : Obligations.ReleaseFreesTheEntry := by
  intro n body e u s i x hs hp hn hx
  have hextra : releaseExtra (s.entry i) = x := by
    rcases hx with ⟨hst, rfl⟩ | ⟨h1, h2, rfl⟩
    · exact releaseExtra_withdrawn hst
    · exact releaseExtra_standing h1 h2
  have hreach : exec (.release n body e) u
      = .next (enterBus (afterEnd e) (takeRelease n (kindByte .release :: body) i s)) :=
    exec_kindCommand_reaches rfl hs hp hn e
  rw [hreach, ← hextra]
  rfl

end Sys2Proof.Machine
end

section
/-! PROOFS. Leases (chapter 5): the lease expiry and the warning point (O34). -/

namespace Sys2Proof.Machine

/-! ## The lease count (R91, R92) -/

/-- The count has come down to a point below the lease once that many whole seconds of the period have passed (R91). -/
theorem leaseLeft_le_iff {s : State} {e : Entry} {p : LeasePeriod} {point : Nat} (hp : e.period = some p)
    (hpoint : point < e.lease) : leaseLeft s e ≤ point ↔ p.start + 1000 * (e.lease - point) ≤ ticks s := by
  simp only [leaseLeft, hp]
  omega

/-- A lease that has run its full length is due in the states in which it counts (R91). -/
theorem leaseDue_of_run {s : State} {i : Idx} {p : LeasePeriod} (hp : (s.entry i).period = some p)
    (hlease : (s.entry i).lease ≠ 0) (hcounts : countsLease (s.entry i).state = true)
    (hrun : p.start + 1000 * (s.entry i).lease ≤ ticks s) : leaseDue s i = true := by
  have hleft : leaseLeft s (s.entry i) = 0 :=
    Nat.le_zero.mp ((leaseLeft_le_iff hp (Nat.pos_of_ne_zero hlease)).mpr hrun)
  simp [leaseDue, hcounts, hp, hleft]

/-- The warning point is reached in a counting state, before the entry is warned, and by a lease longer than the point (R92). -/
theorem warningDue_period {s : State} {i : Idx} {p : LeasePeriod} (hp : (s.entry i).period = some p) :
    warningDue s i = true ↔ countsLease (s.entry i).state = true ∧ p.warned = false ∧ p.warnPoint < (s.entry i).lease
      ∧ leaseLeft s (s.entry i) ≤ p.warnPoint := by
  simp [warningDue, hp, and_assoc]

theorem noticePending_iff (s : State) (n : Slot) (i : Idx) (k : NoticeKind) :
    noticePending s n i k = true ↔ ∃ x ∈ (s.outbox n).notices, x.index = i ∧ x.kind = k := by
  simp [noticePending]

/-! ## The two events -/

theorem exec_leaseExpiry_due {s : State} {i : Idx} (h : leaseDue s i = true) :
    exec (.leaseExpiry i) s = .next
      (if (s.entry i).state = .enabling then judgeDeficit (rebalance (retireEntry .lease i s))
        else revokeEntry .lease i s) := by
  change execLeaseExpiry i s = _
  rw [execLeaseExpiry, if_pos h]

/-- The entry with its period marked as warned (R92). -/
def markWarned (i : Idx) (p : LeasePeriod) (s : State) : State :=
  s.setEntry i { s.entry i with period := some { p with warned := true } }

theorem exec_warningPoint_due {s : State} {i : Idx} {p : LeasePeriod} (hp : (s.entry i).period = some p)
    (h : warningDue s i = true) :
    exec (.warningPoint i) s = .next
      (if (s.entry i).state = .reducing ∧ noticePending s (s.entry i).slot i .reduce = true then markWarned i p s
        else queueNotice .leaseWarn i 0 (markWarned i p s)) := by
  change execWarningPoint i s = _
  rw [execWarningPoint]
  simp only [h, if_true, hp, Option.map_some]
  rfl

theorem exec_warningPoint_notDue {s : State} {i : Idx} (h : ¬ warningDue s i = true) :
    exec (.warningPoint i) s = .next s := by
  change execWarningPoint i s = _
  rw [execWarningPoint]
  simp only [if_neg h]

/-- Settles O34: both events compare the count of whole seconds with a point, the expiry with 0 and the warning with the point
of the period; what they do then is read off the entry's state. -/
theorem leaseExpiryAndWarning : Obligations.LeaseExpiryAndWarning := by
  intro i p s hp hlease marked pending
  have hpending : noticePending s (s.entry i).slot i .reduce = true ↔ pending := noticePending_iff ..
  refine ⟨fun hrun => ⟨fun hst => ?enabling, fun hst => ?live⟩, fun hcounts hwarned hpoint hrun => ?warning, fun h => ?never⟩
  case enabling =>
    have hcounts : countsLease (s.entry i).state = true := by rw [hst]; rfl
    rw [exec_leaseExpiry_due (leaseDue_of_run hp hlease hcounts hrun), if_pos hst]
  case live =>
    have hcounts : countsLease (s.entry i).state = true := by rcases hst with h | h | h <;> rw [h] <;> rfl
    have hne : (s.entry i).state ≠ .enabling := by rcases hst with h | h | h <;> rw [h] <;> decide
    rw [exec_leaseExpiry_due (leaseDue_of_run hp hlease hcounts hrun), if_neg hne]
  case warning =>
    have hdue := (warningDue_period hp).mpr ⟨hcounts, hwarned, hpoint, (leaseLeft_le_iff hp hpoint).mpr hrun⟩
    rw [exec_warningPoint_due hp hdue, ← hpending]
    exact ⟨fun hst hpend => by rw [if_pos ⟨hst, hpend⟩]; rfl, fun hno => by rw [if_neg hno]; rfl⟩
  case never =>
    refine exec_warningPoint_notDue fun hdue => ?_
    obtain ⟨-, hwarned, hpoint, -⟩ := (warningDue_period hp).mp hdue
    rcases h with h | h
    · exact absurd (hwarned.symm.trans h) (by decide)
    · exact absurd hpoint (not_lt.mpr h)

end Sys2Proof.Machine
end

section
/-! PROOFS. The rail sample (chapter 8): the sampled band, and the candidate and its timer by Table 8-2 (O21). -/

namespace Sys2Proof.Machine

/-! ## The sampled band (R131) -/

/-- The thresholds that bound a band from below and above place the code in it; no order of T1, T2 and T3 is assumed. -/
theorem bandOf_eq_of_thresholds {s : State} {code : BitVec 10} {b : Band}
    (h : code.toNat < activeItem s .t1 ∧ b = 0
      ∨ activeItem s .t1 ≤ code.toNat ∧ code.toNat < activeItem s .t2 ∧ b = 1
      ∨ activeItem s .t1 ≤ code.toNat ∧ activeItem s .t2 ≤ code.toNat ∧ code.toNat < activeItem s .t3 ∧ b = 2
      ∨ activeItem s .t1 ≤ code.toNat ∧ activeItem s .t2 ≤ code.toNat ∧ activeItem s .t3 ≤ code.toNat ∧ b = 3) :
    bandOf s code = b := by
  unfold bandOf
  rcases h with ⟨h1, rfl⟩ | ⟨h1, h2, rfl⟩ | ⟨h1, h2, h3, rfl⟩ | ⟨h1, h2, h3, rfl⟩
  · rw [if_pos h1]
  · rw [if_neg (not_lt.mpr h1), if_pos h2]
  · rw [if_neg (not_lt.mpr h1), if_neg (not_lt.mpr h2), if_pos h3]
  · rw [if_neg (not_lt.mpr h1), if_neg (not_lt.mpr h2), if_neg (not_lt.mpr h3)]

/-! ## The rows of Table 8-2 (R132) -/

/-- The sampled band is the qualified band: no candidate stays. -/
theorem considerBand_qualified {s : State} {b : Band} (hs : s.supply ≠ .unqualified) (hq : s.qualified = some b) :
    considerBand b s = { s with candidate := none, qualTimer := none } :=
  if_pos ⟨hs, hq⟩

/-- The sampled band is not the qualified band: the candidate decides. -/
theorem considerBand_unqualified {s : State} {b : Band} (hq : s.supply = .unqualified ∨ s.qualified ≠ some b) :
    considerBand b s = if s.candidate = some b then s
      else { s with candidate := some b, qualTimer := some (firstTick s + duration s (qualifyItem s b)) } :=
  if_neg fun ⟨hs, he⟩ => hq.elim hs (· he)

/-- The sampled band is the candidate: its timer runs on. -/
theorem considerBand_candidate {s : State} {b : Band} (hq : s.supply = .unqualified ∨ s.qualified ≠ some b)
    (hc : s.candidate = some b) : considerBand b s = s := by
  rw [considerBand_unqualified hq, if_pos hc]

/-- The sampled band is neither: it becomes the candidate, and its timer starts afresh. -/
theorem considerBand_fresh {s : State} {b : Band} (hq : s.supply = .unqualified ∨ s.qualified ≠ some b)
    (hc : s.candidate ≠ some b) :
    considerBand b s
      = { s with candidate := some b, qualTimer := some (firstTick s + duration s (qualifyItem s b)) } := by
  rw [considerBand_unqualified hq, if_neg hc]

theorem qualifyItem_none {s : State} (b : Band) (hq : s.qualified = none) : qualifyItem s b = .riseq := by
  simp only [qualifyItem, hq]

theorem qualifyItem_above {s : State} {b q : Band} (hq : s.qualified = some q) (h : q < b) :
    qualifyItem s b = .riseq := by
  simp only [qualifyItem, hq]
  exact if_neg fun ⟨_, hbq⟩ => absurd hbq h.asymm

theorem qualifyItem_below {s : State} {b q : Band} (hs : s.supply ≠ .unqualified) (hq : s.qualified = some q)
    (h : b < q) : qualifyItem s b = .fallq := by
  simp only [qualifyItem, hq]
  exact if_pos ⟨hs, h⟩

/-- RISEQ counts in units of 10 ms. -/
theorem duration_riseq (s : State) : duration s .riseq = 10 * activeItem s .riseq := rfl

/-- FALLQ counts in milliseconds. -/
theorem duration_fallq (s : State) : duration s .fallq = activeItem s .fallq := Nat.one_mul _

/-! ## The sample -/

/-- The state with a new rail code and sampled band, before Table 8-2 is applied (R131). -/
def recordSample (code : BitVec 10) (b : Band) (s : State) : State := { s with railCode := code, sampled := b }

theorem exec_railSample_running {s : State} {code : BitVec 10} {b : Band} (hr : s.inReset = false)
    (hb : bandOf s code = b) : exec (.railSample code) s = .next (considerBand b (recordSample code b s)) := by
  change execRailSample code s = _
  rw [execRailSample, unlessReset_running hr, hb, recordSample]

/-- Settles O21: the thresholds give the sampled band, and each clause is one row of Table 8-2, the last split by the
duration that the new candidate's timer takes. -/
theorem railSampleByTable : Obligations.RailSampleByTable := by
  intro code b s hr hband sampled
  have hexec : exec (.railSample code) s = .next (considerBand b sampled) :=
    exec_railSample_running hr (bandOf_eq_of_thresholds hband)
  rw [hexec]
  refine ⟨fun hs hq => ?qualified, fun hq hc => ?candidate, fun hs hq hc => ?first,
    fun q hs hq hc => ⟨fun habove => ?above, fun hbelow => ?below⟩⟩
  case qualified => rw [considerBand_qualified (s := sampled) hs hq]
  case candidate => rw [considerBand_candidate (s := sampled) hq hc]
  case first =>
    rw [considerBand_fresh (s := sampled) (.inl hs) hc, qualifyItem_none (s := sampled) b hq, duration_riseq]
    rfl
  case above =>
    have hne : s.qualified ≠ some b := fun he => habove.ne (Option.some.inj (hq.symm.trans he))
    rw [considerBand_fresh (s := sampled) (.inr hne) hc, qualifyItem_above (s := sampled) hq habove, duration_riseq]
    rfl
  case below =>
    have hne : s.qualified ≠ some b := fun he => hbelow.ne' (Option.some.inj (hq.symm.trans he))
    rw [considerBand_fresh (s := sampled) (.inr hne) hc, qualifyItem_below (s := sampled) hs hq hbelow, duration_fallq]
    rfl

end Sys2Proof.Machine
end

section
/-! PROOFS. Slot Power Control (chapter 9): the insertion (O27) and the removal (O28) of a module. -/

namespace Sys2Proof.Machine

/-! ## Presence qualifies (R146, R147) -/

theorem exec_presenceTimerExpiry_due {n : Slot} {s : State} (hdue : due s (s.slotRec n).presence = true) :
    exec (.presenceTimerExpiry n) s = .next (if (s.slotRec n).seated then removeModule n s else insertModule n s) :=
  congrArg Host.Outcome.next (if_pos hdue)

@[simp] theorem raise_waitQueue (e : Event) (s : State) : (raise e s).waitQueue = s.waitQueue := rfl
@[simp] theorem raise_admission (e : Event) (s : State) : (raise e s).admission = s.admission := rfl
@[simp] theorem raise_slots (e : Event) (s : State) : (raise e s).slots = s.slots := rfl

theorem raise_seatChange_events (s : State) : (raise .seatChange s).events = s.events ||| 0x100 := rfl

/-- Settles O27: on a slot that is not seated the expiry is the insertion, whose three updates the statement writes out. -/
theorem insertionOfAModule : Obligations.InsertionOfAModule := by
  intro n s hdue hseated
  rw [exec_presenceTimerExpiry_due hdue, hseated]
  rfl

/-! ## The slot's side of a removal (R148) -/

theorem emptyOfModule_blocked {n : Slot} {s : State} (h : (s.slotRec n).state = .blocked) :
    emptyOfModule n s = s.setSlot n { s.slotRec n with seated := false, presence := none } :=
  if_pos h

theorem emptyOfModule_unblocked {n : Slot} {s : State} (h : (s.slotRec n).state ≠ .blocked) :
    emptyOfModule n s = leaveInrush n (s.setSlot n
      { switchedOff (s.slotRec n) with
        state := .empty, seated := false, presence := none, key := none, cooldown := none }) :=
  if_neg h

/-- The slot's side of a removal touches the slots and the Inrush Queue alone. -/
theorem emptyOfModule_eq (n : Slot) (s : State) :
    emptyOfModule n s = { s with slots := (emptyOfModule n s).slots, inrush := (emptyOfModule n s).inrush } := by
  by_cases h : (s.slotRec n).state = .blocked
  · rw [emptyOfModule_blocked h]
    rfl
  · rw [emptyOfModule_unblocked h]
    rfl

@[simp] theorem emptyOfModule_table (n : Slot) (s : State) : (emptyOfModule n s).table = s.table := by
  rw [emptyOfModule_eq]
@[simp] theorem emptyOfModule_outboxes (n : Slot) (s : State) : (emptyOfModule n s).outboxes = s.outboxes := by
  rw [emptyOfModule_eq]
@[simp] theorem emptyOfModule_waitQueue (n : Slot) (s : State) : (emptyOfModule n s).waitQueue = s.waitQueue := by
  rw [emptyOfModule_eq]
@[simp] theorem emptyOfModule_admission (n : Slot) (s : State) : (emptyOfModule n s).admission = s.admission := by
  rw [emptyOfModule_eq]
@[simp] theorem emptyOfModule_entry (n : Slot) (s : State) (i : Idx) : (emptyOfModule n s).entry i = s.entry i :=
  entry_of_table (emptyOfModule_table n s) i
@[simp] theorem emptyOfModule_outbox (n : Slot) (s : State) (m : Slot) : (emptyOfModule n s).outbox m = s.outbox m :=
  outbox_of_outboxes (emptyOfModule_outboxes n s) m

theorem emptyOfModule_slotRec_ne {n m : Slot} (h : m ≠ n) (s : State) :
    (emptyOfModule n s).slotRec m = s.slotRec m := by
  by_cases hb : (s.slotRec n).state = .blocked
  · rw [emptyOfModule_blocked hb, slotRec_setSlot_ne _ _ h]
  · rw [emptyOfModule_unblocked hb, leaveInrush_slotRec, slotRec_setSlot_ne _ _ h]

/-- The slot a module has left is BLOCKED or EMPTY, so that it has no power or place to lose. -/
theorem emptyOfModule_state (n : Slot) (s : State) :
    ((emptyOfModule n s).slotRec n).state = .blocked ∨ ((emptyOfModule n s).slotRec n).state = .empty := by
  by_cases h : (s.slotRec n).state = .blocked
  · exact .inl (by rw [emptyOfModule_blocked h, slotRec_setSlot_same]; exact h)
  · exact .inr (by rw [emptyOfModule_unblocked h, leaveInrush_slotRec, slotRec_setSlot_same])

/-! ## The freeing of a slot's entries (R24) -/

/-- Every non-FREE entry of the slot is freed. -/
def freeSlot (n : Slot) (s : State) : State := freeAll (entriesWhere s (ofSlot n)) s

theorem ofSlot_slot {n : Slot} {e : Entry} (h : ofSlot n e = true) : e.slot = n := by
  obtain ⟨-, hslot⟩ := Bool.and_eq_true_iff.mp h
  exact beq_iff_eq.mp hslot

theorem contains_entriesWhere (s : State) (p : Entry → Bool) (i : Idx) :
    (entriesWhere s p).contains i = p (s.entry i) := by
  rw [Bool.eq_iff_iff, List.contains_iff_mem, mem_entriesWhere]

theorem slot_of_mem_ofSlot {s : State} {n : Slot} : ∀ i ∈ entriesWhere s (ofSlot n), (s.entry i).slot = n :=
  fun i hi => ofSlot_slot ((mem_entriesWhere s _ i).mp hi)

theorem freeSlot_only (n : Slot) (s : State) : ContractsOnly s (freeSlot n s) := freeAll_only _ s

theorem freeSlot_entry (n : Slot) (s : State) (i : Idx) :
    (freeSlot n s).entry i =
      if ofSlot n (s.entry i) then { blankEntry with gen := (s.entry i).gen + 1 } else s.entry i := by
  rw [freeSlot, freeAll_entry _ (nodup_entriesWhere ..)]
  simp only [mem_entriesWhere]

theorem freeSlot_waitQueue (n : Slot) (s : State) :
    (freeSlot n s).waitQueue = s.waitQueue.filter fun i => !ofSlot n (s.entry i) := by
  simp only [freeSlot, freeAll_waitQueue, contains_entriesWhere]

theorem freeSlot_admission (n : Slot) (s : State) :
    (freeSlot n s).admission = s.admission.filter fun i => !ofSlot n (s.entry i) := by
  simp only [freeSlot, freeAll_admission, contains_entriesWhere]

theorem freeSlot_outbox_ne {n m : Slot} (h : m ≠ n) (s : State) : (freeSlot n s).outbox m = s.outbox m :=
  freeAll_outbox_ne n m h _ (nodup_entriesWhere ..) s slot_of_mem_ofSlot

/-- On a slot that is BLOCKED or EMPTY the freeings leave the slots and the Inrush Queue. -/
theorem freeSlot_slots {n : Slot} {s : State} (h : (s.slotRec n).state = .blocked ∨ (s.slotRec n).state = .empty) :
    (freeSlot n s).slots = s.slots ∧ (freeSlot n s).inrush = s.inrush := by
  have hne : (s.slotRec n).state ≠ .on ∧ (s.slotRec n).state ≠ .queued ∧ (s.slotRec n).state ≠ .suspended := by
    rcases h with h | h <;> rw [h] <;> decide
  obtain ⟨hon, hqueued, hsuspended⟩ := hne
  exact freeAll_slots n _ (nodup_entriesWhere ..) s slot_of_mem_ofSlot hon hqueued hsuspended

/-! ## The removal (R148) -/

/-- The state of a removal before its rebalance: the slot emptied, its entries freed, its outbox cleared. -/
def moduleRemoved (n : Slot) (s : State) : State :=
  raise .seatChange ((freeSlot n (emptyOfModule n s)).setOutbox n emptyOutbox)

theorem removeModule_eq (n : Slot) (s : State) : removeModule n s = judgeDeficit (rebalance (moduleRemoved n s)) := rfl

/-- The slots of a removal are those its emptied slot leaves. -/
theorem moduleRemoved_slots (n : Slot) (s : State) :
    (moduleRemoved n s).slots = (emptyOfModule n s).slots ∧ (moduleRemoved n s).inrush = (emptyOfModule n s).inrush := by
  rw [moduleRemoved, raise_slots, raise_inrush, setOutbox_slots, setOutbox_inrush]
  exact freeSlot_slots (emptyOfModule_state n s)

/-- Settles O28: the slot is emptied first, so the freeings find it EMPTY or BLOCKED and leave every slot as it then is. -/
theorem removalOfAModule : Obligations.RemovalOfAModule := by
  intro n s hdue hseated
  have honly : ContractsOnly s ((freeSlot n (emptyOfModule n s)).setOutbox n emptyOutbox) :=
    (emptyOfModule_only n s).trans <| (freeSlot_only n _).trans <| setOutbox_only ..
  obtain ⟨hslots, hinrush⟩ := moduleRemoved_slots n s
  have hrec := slotRec_of_slots hslots
  refine ⟨moduleRemoved n s, ?exec, honly.decisions.trans (raise_only ..), honly.deficit, ?events, fun i => ?entries,
    ?waitQueue, ?admission, ?outbox, fun m hm => ?outboxes, fun m hm => ?slots, fun hb => ?blocked, fun hb => ?emptied⟩
  case exec => rw [exec_presenceTimerExpiry_due hdue, hseated, if_pos rfl, removeModule_eq]
  case events => rw [moduleRemoved, raise_seatChange_events, honly.events]
  case entries => simp only [moduleRemoved, raise_entry, entry_setOutbox, freeSlot_entry, emptyOfModule_entry]
  case waitQueue =>
    simp only [moduleRemoved, raise_waitQueue, setOutbox_waitQueue, freeSlot_waitQueue, emptyOfModule_waitQueue,
      emptyOfModule_entry]
  case admission =>
    simp only [moduleRemoved, raise_admission, setOutbox_admission, freeSlot_admission, emptyOfModule_admission,
      emptyOfModule_entry]
  case outbox => rw [moduleRemoved, raise_outbox, outbox_setOutbox_same, emptyOutbox]
  case outboxes =>
    rw [moduleRemoved, raise_outbox, outbox_setOutbox_ne _ _ hm, freeSlot_outbox_ne hm, emptyOfModule_outbox]
  case slots => rw [hrec, emptyOfModule_slotRec_ne hm]
  case blocked =>
    rw [hrec, hinrush, emptyOfModule_blocked hb, slotRec_setSlot_same]
    exact ⟨rfl, rfl⟩
  case emptied =>
    rw [hrec, hinrush, emptyOfModule_unblocked hb, leaveInrush_slotRec, slotRec_setSlot_same]
    exact ⟨rfl, rfl⟩

end Sys2Proof.Machine
end

section
/-! PROOFS. Slot Power Control (chapter 9): the turn-on of the head of the Inrush Queue (O29). -/

namespace Sys2Proof.Machine

/-! ## The timers a turn-on starts (R153, R154) -/

/-- At a tick a duration counts from that tick (R1). -/
theorem expiryAfter_atTick {s : State} (h : atTick s = true) (d : Nat) : expiryAfter s d = ticks s + d := by
  have heven : s.now % 2 = 0 := beq_iff_eq.mp h
  have hfirst : (s.now + 1) / 2 = s.now / 2 := by omega
  exact congrArg (· + d) hfirst

/-- INRUSH counts in milliseconds. -/
theorem duration_inrush (s : State) : duration s .inrush = activeItem s .inrush := Nat.one_mul _

/-- BLANK counts in milliseconds; a BLANK of 0 starts no timer. -/
theorem startTimer_blank {s : State} (h : atTick s = true) :
    startTimer s .blank = if activeItem s .blank = 0 then none else some (ticks s + activeItem s .blank) := by
  have hd : duration s .blank = activeItem s .blank := Nat.one_mul _
  rw [startTimer, hd, expiryAfter_atTick h]

/-- STABLE counts in seconds and is at least 1 in a configuration in force. -/
theorem startTimer_stable {s : State} (hc : ConfigOk s) (h : atTick s = true) :
    startTimer s .stable = some (ticks s + 1000 * activeItem s .stable) := by
  obtain ⟨hranges, -, -⟩ := hc
  obtain ⟨hmin, -⟩ := hranges .stable (by decide)
  have hpos : 1 ≤ activeItem s .stable := hmin
  have hd : duration s .stable = 1000 * activeItem s .stable := rfl
  have hne : 1000 * activeItem s .stable ≠ 0 := by omega
  rw [startTimer, hd, if_neg hne, expiryAfter_atTick h]

/-! ## The turn-on (R152, R153) -/

theorem exec_turnOn_due {n : Slot} {rest : List Slot} {s : State} (hq : s.inrush = n :: rest) (h : turnOnDue s = true) :
    exec .turnOn s = .next (turnOnSlot n s) := by
  change execTurnOn s = _
  simp only [execTurnOn, hq, h, if_true]

/-- The record of a slot that is turned on (R153). -/
def onRec (s : State) (n : Slot) : SlotRec :=
  { s.slotRec n with state := .on, switch := true, key := none, blanking := startTimer s .blank,
                     stable := startTimer s .stable, fault := none }

/-- The slot is ON and out of the Inrush Queue, its entries as they were. -/
def switchedOn (n : Slot) (s : State) : State := leaveInrush n (s.setSlot n (onRec s n))

theorem turnOnSlot_energize (n : Slot) (s : State) :
    turnOnSlot n s = { energize n (switchedOn n s) with lastOn := some (ticks s) } := rfl

/-- A turn-on changes the table, the slots, the Inrush Queue and the instant of the last turn-on alone. -/
theorem turnOnSlot_eq (n : Slot) (s : State) :
    turnOnSlot n s = { s with
      table := (turnOnSlot n s).table, slots := (s.setSlot n (onRec s n)).slots
      inrush := s.inrush.filter (· != n), lastOn := some (ticks s) } := by
  rw [turnOnSlot_energize, energize_eq]
  rfl

theorem turnOnSlot_slots (n : Slot) (s : State) : (turnOnSlot n s).slots = (s.setSlot n (onRec s n)).slots := by
  rw [turnOnSlot_eq]

theorem turnOnSlot_entry (n : Slot) (s : State) (i : Idx) :
    (turnOnSlot n s).entry i =
      if (s.entry i).slot = n ∧ (s.entry i).state = .enabling then { s.entry i with state := poweredState (s.entry i) }
      else s.entry i :=
  energize_entry n (switchedOn n s) i

/-- Settles O29: the conditions are those of R152, so the head is turned on; at a tick its timers count from that tick, and a
configuration in force has a STABLE that is not 0. -/
theorem turnOnOfTheHead : Obligations.TurnOnOfTheHead := by
  intro n rest s hc hq hsupply htick hspacing
  have hspacing' : ∀ t, s.lastOn = some t → t + duration s .inrush ≤ ticks s := by rwa [duration_inrush]
  have hdue : turnOnDue s = true := (turnOnDue_iff s).mpr ⟨htick, hsupply, by simp [hq], hspacing'⟩
  have hrec := slotRec_of_slots (turnOnSlot_slots n s)
  have hleft : s.inrush.filter (· != n) = rest.filter (· != n) := by simp [hq]
  refine ⟨turnOnSlot n s, exec_turnOn_due hq hdue, ?only, turnOnSlot_entry n s, fun m hm => ?others, ?head⟩
  case only => rw [← hleft, turnOnSlot_eq]
  case others => rw [hrec, slotRec_setSlot_ne _ _ hm]
  case head => rw [hrec, slotRec_setSlot_same, onRec, startTimer_blank htick, startTimer_stable hc htick]

end Sys2Proof.Machine
end

section
/-! PROOFS. Slot Power Control (chapter 9): a trip (O30). -/

namespace Sys2Proof.Machine

theorem exec_trip_due {n : Slot} {s : State} (hon : (s.slotRec n).state = .on)
    (hdue : due s (s.slotRec n).fault = true) : exec (.trip n) s = .next (tripSlot n s) := by
  have h : tripDue s n = true := by rw [tripDue, hon, hdue]; rfl
  change execTrip n s = _
  rw [execTrip, if_pos h]

/-- The record of a slot that has tripped, before the trip limit tells its state (R155). -/
def trippedOff (r : SlotRec) : SlotRec := { switchedOff r with key := none, trips := r.trips + 1 }

theorem trippedSlot_blocked {s : State} {r : SlotRec} (h : activeItem s .triplim ≤ r.trips + 1) :
    trippedSlot s r = { trippedOff r with state := .blocked } :=
  if_pos h

theorem trippedSlot_tripped {s : State} {r : SlotRec} (h : r.trips + 1 < activeItem s .triplim) :
    trippedSlot s r =
      { trippedOff r with state := .tripped, cooldown := some (firstTick s + 100 * activeItem s .cooldown) } :=
  if_neg (not_le.mpr h)

/-- The slot's record is that of its trip and its standing entries are retired; no flag is raised yet (R155). -/
def trippedContracts (n : Slot) (s : State) : State := retireSlot .fault n (s.setSlot n (trippedSlot s (s.slotRec n)))

theorem trippedContracts_events (n : Slot) (s : State) : (trippedContracts n s).events = s.events :=
  (retireSlot_only .fault n (s.setSlot n (trippedSlot s (s.slotRec n)))).events

/-- At the trip limit both flags are raised. -/
theorem tripSlot_atLimit {n : Slot} {s : State} (h : activeItem s .triplim ≤ (s.slotRec n).trips + 1) :
    tripSlot n s = judgeDeficit (rebalance
      { trippedContracts n s with events := s.events ||| 0x010 ||| 0x020 }) := by
  rw [← trippedContracts_events n s]
  exact congrArg (fun t => judgeDeficit (rebalance t)) (if_pos h)

/-- Below the trip limit SLOT_TRIP alone is raised. -/
theorem tripSlot_belowLimit {n : Slot} {s : State} (h : (s.slotRec n).trips + 1 < activeItem s .triplim) :
    tripSlot n s = judgeDeficit (rebalance { trippedContracts n s with events := s.events ||| 0x010 }) := by
  rw [← trippedContracts_events n s]
  exact congrArg (fun t => judgeDeficit (rebalance t)) (if_neg (not_le.mpr h))

/-- Settles O30: the trip limit tells both the slot's record and the flags, and retiring the entries raises none. -/
theorem tripOfASlot : Obligations.TripOfASlot := by
  intro n s hon hdue r off blocked tripped
  rw [exec_trip_due hon hdue]
  refine ⟨fun hlimit => ?atLimit, fun hlimit => ?belowLimit⟩
  case atLimit =>
    rw [tripSlot_atLimit hlimit, trippedContracts, trippedSlot_blocked hlimit]
    rfl
  case belowLimit =>
    rw [tripSlot_belowLimit hlimit, trippedContracts, trippedSlot_tripped hlimit]
    rfl

end Sys2Proof.Machine
end

section
/-! PROOFS. Slot Power Control (chapter 9): the host's commands on a slot (O38). -/

namespace Sys2Proof.Machine

/-! ## A command on the slot ARG0 names (R169, R174) -/

theorem argSlot_of_arg0 {s : State} {n : Slot} (h : s.arg0.toNat = n.val) : argSlot s = some n := by
  simp [argSlot, h]

theorem complete_ok (code : Byte) (s : State) : complete code .ok 0 s = { s with cmd := code, result := 0x0100 } := rfl

/-- With RSTn high and a slot named, the command acts on that slot and gives OK with value 0. -/
theorem unlessReset_onSlot {s : State} {n : Slot} (hr : s.inReset = false) (hn : s.arg0.toNat = n.val) (code : Byte)
    (act : Slot → State → State) :
    unlessReset (onSlot code act) s = { act n s with cmd := code, result := 0x0100 } := by
  rw [unlessReset_running hr]
  simp only [onSlot, argSlot_of_arg0 hn, complete_ok]

/-! ## BLOCK and UNBLOCK (R160, R161) -/

theorem blockSlot_blocked {n : Slot} {s : State} (h : (s.slotRec n).state = .blocked) : blockSlot n s = s := if_pos h

/-- The slot's own part of a BLOCK: BLOCKED, off, its timers stopped and out of the Inrush Queue (R160). -/
def slotBlocked (n : Slot) (s : State) : State :=
  leaveInrush n (s.setSlot n { switchedOff (s.slotRec n) with state := .blocked, key := none, cooldown := none })

theorem blockSlot_unblocked {n : Slot} {s : State} (h : (s.slotRec n).state ≠ .blocked) :
    blockSlot n s = judgeDeficit (rebalance
      { retireSlot .blocked n (slotBlocked n s) with events := s.events ||| 0x020 }) := by
  have hevents : (retireSlot .blocked n (slotBlocked n s)).events = s.events :=
    (retireSlot_only .blocked n (slotBlocked n s)).events
  rw [← hevents]
  exact if_neg h

theorem unblockSlot_blocked {n : Slot} {s : State} (h : (s.slotRec n).state = .blocked) :
    unblockSlot n s = s.setSlot n
      { s.slotRec n with trips := 0, state := if (s.slotRec n).seated then .idle else .empty } :=
  if_pos h

theorem unblockSlot_unblocked {n : Slot} {s : State} (h : (s.slotRec n).state ≠ .blocked) : unblockSlot n s = s :=
  if_neg h

/-- Settles O38: ARG0 names the slot, so each command is its act on that slot with OK; BLOCK and UNBLOCK ask whether the slot
is BLOCKED, and CLEAR_TRIPS asks nothing. -/
theorem slotCommands : Obligations.SlotCommands := by
  intro n s hr hn r
  have hblock : exec .block s = .next { blockSlot n s with cmd := 0x05, result := 0x0100 } :=
    congrArg Host.Outcome.next (unlessReset_onSlot hr hn 0x05 blockSlot)
  have hunblock : exec .unblock s = .next { unblockSlot n s with cmd := 0x06, result := 0x0100 } :=
    congrArg Host.Outcome.next (unlessReset_onSlot hr hn 0x06 unblockSlot)
  have hclear : exec .clearTrips s = .next { clearTripsOf n s with cmd := 0x07, result := 0x0100 } :=
    congrArg Host.Outcome.next (unlessReset_onSlot hr hn 0x07 clearTripsOf)
  rw [hblock, hunblock, hclear]
  refine ⟨fun hb => ?_, fun hb => ?_, fun hb => ?_, fun hb => ?_, rfl⟩
  · rw [blockSlot_blocked hb]
  · rw [blockSlot_unblocked hb]
    rfl
  · rw [unblockSlot_blocked hb]
  · rw [unblockSlot_unblocked hb]

end Sys2Proof.Machine
end

section
/-! PROOFS. The Board Controller Port (chapter 10): LOOKUP and FIND (O35). -/

namespace Sys2Proof.Machine

/-! ## The arguments (R169) -/

theorem argIndex_of_arg0 {s : State} {i : Idx} (h : s.arg0.toNat = i.val) : argIndex s = some i := by
  simp [argIndex, h]

theorem argTag_of_arg1 {s : State} {t : Tag} (h : s.arg1.toNat = t.val) : argTag s = some t := by
  simp [argTag, h]

/-! ## The widths of the fields of Table 10-4

Each lemma bounds one field of an entry in order by the bits the snapshot has for it. -/

theorem EntryOk.requested_le {e : Entry} (h : EntryOk e) : e.requested ≤ 1023 := by
  obtain ⟨hfree, hlevels, -⟩ := h
  by_cases hst : e.state = .free
  · rw [hfree hst]
    exact Nat.zero_le _
  · obtain ⟨-, -, hle⟩ := hlevels hst
    exact hle

theorem EntryOk.floor_le {e : Entry} (h : EntryOk e) : e.floor ≤ 1023 := by
  have hrequested := h.requested_le
  obtain ⟨hfree, hlevels, -⟩ := h
  by_cases hst : e.state = .free
  · rw [hfree hst]
    exact Nat.zero_le _
  · obtain ⟨-, hle, -⟩ := hlevels hst
    exact hle.trans hrequested

theorem EntryOk.held_le {e : Entry} (h : EntryOk e) : e.held ≤ 1023 := by
  have hrequested := h.requested_le
  obtain ⟨-, -, hadmitted, hnothing, -⟩ := h
  cases hst : isAdmitted e.state with
  | false => exact (hnothing hst).trans_le (Nat.zero_le _)
  | true =>
    obtain ⟨-, hle⟩ := hadmitted hst
    exact hle.trans hrequested

theorem EntryOk.target_le {e : Entry} (h : EntryOk e) : e.target.getD 0 ≤ 1023 := by
  have hheld := h.held_le
  obtain ⟨-, -, -, -, -, -, hreducing, hpresent, -⟩ := h
  cases htarget : e.target with
  | none => exact Nat.zero_le _
  | some level =>
    obtain ⟨-, hlt⟩ := hreducing (hpresent.mp (by rw [htarget]; rfl))
    rw [htarget] at hlt
    exact hlt.le.trans hheld

theorem EntryOk.lease_le {e : Entry} (h : EntryOk e) : e.lease ≤ 65535 := by
  obtain ⟨-, -, -, -, -, -, -, -, -, -, -, hle⟩ := h
  exact hle

theorem leaseLeft_le (s : State) (e : Entry) : leaseLeft s e ≤ e.lease := by
  unfold leaseLeft
  split
  · exact Nat.zero_le _
  · exact Nat.sub_le ..

theorem entryStateCode_le (st : EntryState) : entryStateCode st ≤ 8 := by cases st <;> decide

theorem causeCodeOf_le (c : Option Cause) : causeCodeOf c ≤ 8 := by
  cases c with
  | none => decide
  | some c => cases c <;> decide

theorem bit_le_one (b : Bool) : bit b ≤ 1 := by cases b <;> decide

/-- A flag at its place in a register. -/
theorem bit_mul (b : Bool) (k : Nat) : bit b * k = if b then k else 0 := by simp [bit]

theorem deadlineLeft_le (s : State) (e : Entry) : deadlineLeft s e ≤ 255 := Nat.min_le_left ..

/-- A list that holds each entry once has no position above the number of entries (R19). -/
theorem positionIn_le {l : List Idx} (hn : l.Nodup) (i : Idx) : positionIn l i ≤ 32 := by
  by_cases hi : i ∈ l
  · have hlength : l.length ≤ 32 := by simpa using hn.length_le_card
    have hindex : l.idxOf i < l.length := List.idxOf_lt_length_iff.mpr hi
    rw [positionIn_of_mem hi]
    omega
  · simp [positionIn, hi]

/-- A value of at most 16 bits is held in full by a register. -/
theorem toNat_ofNat_word {v : Nat} (h : v ≤ 65535) : (BitVec.ofNat 16 v).toNat = v :=
  (BitVec.toNat_ofNat ..).trans (Nat.mod_eq_of_lt (Nat.lt_succ_of_le h))

/-! ## LOOKUP (R170) -/

theorem exec_lookup_entry {s : State} {i : Idx} (hr : s.inReset = false) (hi : s.arg0.toNat = i.val) :
    exec .lookup s = .next { s with cmd := 0x01, result := 0x0100, snap := snapshot s i } := by
  change execLookup s = _
  simp only [execLookup, unlessReset_running hr, hostLookup, argIndex_of_arg0 hi, complete_ok]

/-- The registers of a snapshot hold the fields of Table 10-4 in full: under the invariant no field exceeds its bits, so that
none is cut and none runs into the next. -/
theorem snapshot_toNat {s : State} (hinv : Inv s) (i : Idx) :
    let e := s.entry i
    (snapshot s i)[0].toNat = e.gen.toNat * 256 + deadlineLeft s e
    ∧ (snapshot s i)[1].toNat = entryStateCode e.state * 4096 + e.slot.val * 256 + e.tag.val * 16 + e.cls.val * 4
        + bit e.period.isSome * 2 + bit e.deadline.isSome
    ∧ (snapshot s i)[2].toNat = causeCodeOf e.cause * 4096 + e.requested
    ∧ (snapshot s i)[3].toNat = positionIn s.waitQueue i * 1024 + e.floor
    ∧ (snapshot s i)[4].toNat = positionIn s.admission i * 1024 + e.held
    ∧ (snapshot s i)[5].toNat = i.val * 2048 + bit e.target.isSome * 1024 + e.target.getD 0
    ∧ (snapshot s i)[6].toNat = e.lease ∧ (snapshot s i)[7].toNat = leaseLeft s e := by
  intro e
  have hok : EntryOk (s.entry i) := hinv.entries i
  obtain ⟨hwait, hadmission, -⟩ := hinv.lists
  refine ⟨?generation, ?labels, ?cause, ?floor, ?held, ?target, ?lease, ?leaseLeft⟩ <;> refine toNat_ofNat_word ?_
  case generation =>
    have hdeadline := deadlineLeft_le s (s.entry i)
    omega
  case labels =>
    have hstate := entryStateCode_le (s.entry i).state
    have hperiod := bit_le_one (s.entry i).period.isSome
    have hdeadline := bit_le_one (s.entry i).deadline.isSome
    omega
  case cause =>
    have hcause := causeCodeOf_le (s.entry i).cause
    have hrequested := hok.requested_le
    omega
  case floor =>
    have hposition := positionIn_le hwait i
    have hfloor := hok.floor_le
    omega
  case held =>
    have hposition := positionIn_le hadmission i
    have hheld := hok.held_le
    omega
  case target =>
    have hpresent := bit_le_one (s.entry i).target.isSome
    have htarget := hok.target_le
    omega
  case lease => exact hok.lease_le
  case leaseLeft => exact (leaseLeft_le s _).trans hok.lease_le

/-! ## FIND (R171) -/

theorem complete_notFound (code : Byte) (s : State) :
    complete code .notFound 0 s = { s with cmd := code, result := 0x0300 } := rfl

/-- RESULT of an OK with a value: the code in its high byte, the value added (R169). -/
theorem complete_okValue (code : Byte) (v : Nat) (s : State) :
    complete code .ok v s = { s with cmd := code, result := 0x0100 + BitVec.ofNat 16 v } := by
  have hsum : BitVec.ofNat 16 (0x0100 + v) = 0x0100 + BitVec.ofNat 16 v := BitVec.ofNat_add ..
  rw [← hsum]
  rfl

theorem exec_find_found {s : State} {n : Slot} {tag : Tag} {i : Idx} (hr : s.inReset = false)
    (hn : s.arg0.toNat = n.val) (ht : s.arg1.toNat = tag.val) (hfind : findTag s n tag = some i) :
    exec .find s = .next { s with cmd := 0x02, result := 0x0100 + BitVec.ofNat 16 i.val } := by
  change execFind s = _
  simp only [execFind, unlessReset_running hr, hostFind, argSlot_of_arg0 hn, argTag_of_arg1 ht, hfind, complete_okValue]

theorem exec_find_notFound {s : State} {n : Slot} {tag : Tag} (hr : s.inReset = false)
    (hn : s.arg0.toNat = n.val) (ht : s.arg1.toNat = tag.val) (hfind : findTag s n tag = none) :
    exec .find s = .next { s with cmd := 0x02, result := 0x0300 } := by
  change execFind s = _
  simp only [execFind, unlessReset_running hr, hostFind, argSlot_of_arg0 hn, argTag_of_arg1 ht, hfind, complete_notFound]

/-- Settles O35: ARG0 names the entry that is copied, and a copied field keeps its value because it fits its bits; the search
of FIND gives the one entry of R17 or none. -/
theorem lookupAndFind : Obligations.LookupAndFind := by
  refine ⟨fun i s hinv hr hi => ?lookup, fun n tag s hr hn ht => ⟨fun i hl ha hslot htag => ?found, fun hno => ?notFound⟩⟩
  case lookup =>
    refine ⟨_, exec_lookup_entry hr hi, rfl, ?_⟩
    obtain ⟨h0, h1, h2, h3, h4, h5, h6, h7⟩ := snapshot_toNat hinv i
    rw [bit_mul] at h1 h5
    exact ⟨h0, h1, h2, h3, h4, h5, h6, h7⟩
  case found => exact exec_find_found hr hn ht (findTag_some hl ha hslot htag)
  case notFound => exact exec_find_notFound hr hn ht ((findTag_none_iff s n tag).mpr hno)

end Sys2Proof.Machine
end

section
/-! PROOFS. The step, and the events whose condition does not hold (O1, O3). -/

namespace Sys2Proof.Machine

/-- Settles O1: the front of the queue is what the step matches on. -/
theorem stepRunsFrontCommand : Obligations.StepRunsFrontCommand := fun _ _ _ => rfl

/-! ## Events that are not due (R1) -/

theorem exec_slotTimer_notDue (n : Slot) (s : State) :
    (due s (s.slotRec n).presence = false → exec (.presenceTimerExpiry n) s = .next s)
    ∧ (due s (s.slotRec n).blanking = false → exec (.blankingTimerExpiry n) s = .next s)
    ∧ (due s (s.slotRec n).fault = false → exec (.trip n) s = .next s)
    ∧ (due s (s.slotRec n).cooldown = false → exec (.cooldownExpiry n) s = .next s)
    ∧ (due s (s.slotRec n).stable = false → exec (.stableTimerExpiry n) s = .next s) := by
  refine ⟨fun h => ?presence, fun h => ?blanking, fun h => ?fault, fun h => ?cooldown, fun h => ?stable⟩
  case presence => change execPresenceTimerExpiry n s = _; simp [execPresenceTimerExpiry, h]
  case blanking => change execBlankingTimerExpiry n s = _; simp [execBlankingTimerExpiry, h]
  case fault => change execTrip n s = _; simp [execTrip, tripDue, h]
  case cooldown => change execCooldownExpiry n s = _; simp [execCooldownExpiry, cooldownDue, h]
  case stable => change execStableTimerExpiry n s = _; simp [execStableTimerExpiry, h]

theorem deadlineDue_notDue {s : State} {i : Idx} (h : due s (s.entry i).deadline = false) (st : EntryState) :
    deadlineDue s i st = false := by simp [deadlineDue, h]

theorem exec_entryTimer_notDue {i : Idx} {s : State} (h : due s (s.entry i).deadline = false) :
    exec (.offerWindowExpiry i) s = .next s ∧ exec (.reduceGraceExpiry i) s = .next s
    ∧ exec (.revokeGraceExpiry i) s = .next s ∧ exec (.deliveryLimitExpiry i) s = .next s := by
  refine ⟨?offer, ?reduce, ?revoke, ?delivery⟩
  case offer => change execOfferWindowExpiry i s = _; simp [execOfferWindowExpiry, deadlineDue_notDue h]
  case reduce => change execReduceGraceExpiry i s = _; simp [execReduceGraceExpiry, deadlineDue_notDue h]
  case revoke => change execRevokeGraceExpiry i s = _; simp [execRevokeGraceExpiry, deadlineDue_notDue h]
  case delivery => change execDeliveryLimitExpiry i s = _; simp [execDeliveryLimitExpiry, deadlineDue_notDue h]

theorem exec_leaseExpiry_notDue {s : State} {i : Idx} (h : ¬ leaseDue s i = true) : exec (.leaseExpiry i) s = .next s := by
  change execLeaseExpiry i s = _
  simp [execLeaseExpiry, h]

/-- A count that has not run the whole lease has not reached 0 (R91). -/
theorem not_leaseDue {s : State} {i : Idx} {p : LeasePeriod} (hp : (s.entry i).period = some p)
    (hlease : (s.entry i).lease ≠ 0) (hrun : ticks s < p.start + 1000 * (s.entry i).lease) : ¬ leaseDue s i = true := by
  have hleft := leaseLeft_le_iff (s := s) hp (Nat.pos_of_ne_zero hlease)
  simp only [leaseDue, Bool.and_eq_true, beq_iff_eq]
  omega

/-- A count that has not come to its warning point gives no warning (R92). -/
theorem not_warningDue {s : State} {i : Idx} {p : LeasePeriod} (hp : (s.entry i).period = some p)
    (hrun : ticks s < p.start + 1000 * ((s.entry i).lease - p.warnPoint)) : ¬ warningDue s i = true := by
  rw [warningDue_period hp]
  rintro ⟨-, -, hpoint, hleft⟩
  have hreached := (leaseLeft_le_iff hp hpoint).mp hleft
  omega

theorem exec_supplyTimer_notDue (s : State) :
    (due s s.qualTimer = false → exec .qualificationTimerExpiry s = .next s)
    ∧ (due s s.holdTimer = false → exec .holdTimerExpiry s = .next s) := by
  refine ⟨fun h => ?_, fun h => ?_⟩
  · change execQualificationTimerExpiry s = _
    unfold execQualificationTimerExpiry
    cases s.candidate <;> simp [h]
  · change execHoldTimerExpiry s = _
    simp [execHoldTimerExpiry, holdDue, h]

theorem exec_stallTimerExpiry_notDue {s : State} (h : due s s.stallTimer = false) (tick : Nat) :
    exec (.stallTimerExpiry tick) s = .next s := by
  have hstall : stallDue s tick = false := by
    by_contra hdue
    simp only [stallDue, Bool.not_eq_false, Bool.and_eq_true, beq_iff_eq] at hdue
    obtain ⟨⟨-, htick⟩, hreached⟩ := hdue
    rw [htick, hreached] at h
    cases h
  change execStallTimerExpiry tick s = _
  simp [execStallTimerExpiry, hstall]

theorem exec_turnOn_notDue {s : State} (h : ¬ turnOnDue s = true) : exec .turnOn s = .next s := by
  change execTurnOn s = _
  unfold execTurnOn
  cases s.inrush <;> simp [h]

/-- Settles O3: each expiry tests the condition of its event before it acts. -/
theorem eventsNotDueChangeNothing : Obligations.EventsNotDueChangeNothing := by
  refine ⟨exec_slotTimer_notDue, fun i s => exec_entryTimer_notDue, fun i s hp => ⟨?_, ?_⟩, fun i p s hp => ⟨?_, ?_⟩,
    fun s => ⟨(exec_supplyTimer_notDue s).1, (exec_supplyTimer_notDue s).2, exec_stallTimerExpiry_notDue, fun h => ?_⟩⟩
  · exact exec_leaseExpiry_notDue (by simp [leaseDue, hp])
  · exact exec_warningPoint_notDue (by simp [warningDue, hp])
  · exact fun hlease hrun => exec_leaseExpiry_notDue (not_leaseDue hp hlease hrun)
  · exact fun hrun => exec_warningPoint_notDue (not_warningDue hp hrun)
  · refine exec_turnOn_notDue fun hdue => ?_
    obtain ⟨hat, hsupply, hinrush, hspacing⟩ := (turnOnDue_iff s).mp hdue
    rcases h with h | h | h | ⟨t, ht, hlt⟩
    · exact h hsupply
    · exact hinrush h
    · simp [hat] at h
    · exact absurd (hspacing t ht) (Nat.not_le.mpr hlt)

end Sys2Proof.Machine
end

section
/-! PROOFS. Slot Power Control (chapter 9): samples (O26) and the expiries of a slot's timers (O31). -/

namespace Sys2Proof.Machine

theorem exec_presenceSample_running {s : State} (hr : s.inReset = false) (n : Slot) (high : Bool) :
    exec (.presenceSample n high) s = .next
      (if high = (s.slotRec n).seated then s.setSlot n { s.slotRec n with presence := none }
       else if (s.slotRec n).presence.isSome then s
       else s.setSlot n { s.slotRec n with presence := some (firstTick s + 50) }) := by
  change execPresenceSample n high s = _
  rw [execPresenceSample, unlessReset_running hr]
  rfl

theorem exec_faultSample_running {s : State} (hr : s.inReset = false) (n : Slot) (high : Bool) :
    exec (.faultSample n high) s = .next
      (if (s.slotRec n).state = .on ∧ (s.slotRec n).blanking = none then
         if high then
           if (s.slotRec n).fault.isSome then s
           else s.setSlot n { s.slotRec n with fault := some (expiryAfter s (duration s .faultq)) }
         else s.setSlot n { s.slotRec n with fault := none }
       else s) := by
  change execFaultSample n high s = _
  rw [execFaultSample, unlessReset_running hr]

theorem expiryAfter_faultq (s : State) : expiryAfter s (duration s .faultq) = firstTick s + activeItem s .faultq := by
  simp [expiryAfter, duration, itemUnit]

/-- Settles O26: a sample is judged against the qualified value, or against the fault timer while it counts. -/
theorem samplesStartAndStopTimers : Obligations.SamplesStartAndStopTimers := by
  intro n high s hr
  refine ⟨fun h => ?stop, fun h hp => ?start, fun h hp => ?running, fun h => ?ignored, fun hon hb h => ?low,
    fun hon hb h hf => ?high, fun hon hb h hf => ?counting⟩
  case stop => rw [exec_presenceSample_running hr, if_pos h]
  case start => rw [exec_presenceSample_running hr, if_neg h, if_neg (by simp [hp])]
  case running => rw [exec_presenceSample_running hr, if_neg h, if_pos (Option.isSome_iff_ne_none.mpr hp)]
  case ignored => rw [exec_faultSample_running hr, if_neg (by tauto)]
  case low => rw [exec_faultSample_running hr, if_pos ⟨hon, hb⟩, if_neg (by simp [h])]
  case high => rw [exec_faultSample_running hr, if_pos ⟨hon, hb⟩, if_pos h, if_neg (by simp [hf]), expiryAfter_faultq]
  case counting => rw [exec_faultSample_running hr, if_pos ⟨hon, hb⟩, if_pos h, if_pos (Option.isSome_iff_ne_none.mpr hf)]

/-- Settles O31: each expiry acts where its timer is due. -/
theorem slotTimerExpiries : Obligations.SlotTimerExpiries := by
  intro n s
  refine ⟨fun h => ?blanking, fun hst h => ?cooldown, fun h => ?stable⟩
  case blanking => change execBlankingTimerExpiry n s = _; simp [execBlankingTimerExpiry, h]
  case cooldown => change execCooldownExpiry n s = _; simp [execCooldownExpiry, cooldownDue, hst, h]
  case stable => change execStableTimerExpiry n s = _; simp [execStableTimerExpiry, h]

end Sys2Proof.Machine
end

section
/-! PROOFS. The Board Controller Port (chapter 10): arguments out of range (O40), the flags and their mask (O41), RETIRE (O36)
and APPLY (O39). -/

namespace Sys2Proof.Machine

/-! ## Arguments out of range (R169) -/

theorem complete_badArg (code : Byte) (s : State) :
    complete code .badArg 0 s = { s with cmd := code, result := 0x0400 } := rfl

theorem argIndex_none {s : State} (h : 31 < s.arg0.toNat) : argIndex s = none := dif_neg (by omega)

theorem argSlot_none {s : State} (h : 11 < s.arg0.toNat) : argSlot s = none := dif_neg (by omega)

theorem argTag_none {s : State} (h : 15 < s.arg1.toNat) : argTag s = none := dif_neg (by omega)

theorem onSlot_badArg {s : State} (h : 11 < s.arg0.toNat) (code : Byte) (act : Slot → State → State) :
    onSlot code act s = { s with cmd := code, result := 0x0400 } := by
  simp only [onSlot, argSlot_none h, complete_badArg]

theorem hostFind_badArg {s : State} (h : 11 < s.arg0.toNat ∨ 15 < s.arg1.toNat) :
    hostFind s = { s with cmd := 0x02, result := 0x0400 } := by
  rcases h with h | h
  · simp only [hostFind, argSlot_none h, complete_badArg]
  · simp only [hostFind, argTag_none h]
    cases argSlot s <;> rfl

/-- A code that names no command falls through every comparison (R169). -/
theorem runCommand_unknown {code : Byte} (h : code = 0 ∨ 8 < code.toNat) (s : State) :
    runCommand code s = { s with cmd := code, result := 0x0400 } := by
  have hne : ∀ k : Byte, 1 ≤ k.toNat → k.toNat ≤ 8 → code ≠ k := by
    rintro k h1 h8 rfl
    rcases h with rfl | h
    · cases h1
    · omega
  simp only [runCommand, if_neg (hne 1 (by decide) (by decide)), if_neg (hne 2 (by decide) (by decide)),
    if_neg (hne 3 (by decide) (by decide)), if_neg (hne 4 (by decide) (by decide)), if_neg (hne 5 (by decide) (by decide)),
    if_neg (hne 6 (by decide) (by decide)), if_neg (hne 7 (by decide) (by decide)), if_neg (hne 8 (by decide) (by decide)),
    complete_badArg]

/-- Settles O40: the arguments are checked before a command has an effect. -/
theorem badArgumentsChangeNothing : Obligations.BadArgumentsChangeNothing := by
  intro s hr
  refine ⟨fun h => ?lookup, fun h => ?find, fun h => ?retire, fun h => ⟨?block, ?unblock, ?clearTrips⟩, fun code h => ?unknown⟩
  case lookup =>
    change execLookup s = _
    simp only [execLookup, unlessReset_running hr, hostLookup, argIndex_none h, complete_badArg]
  case find =>
    change execFind s = _
    simp only [execFind, unlessReset_running hr, hostFind_badArg h]
  case retire =>
    change execRetire s = _
    simp only [execRetire, unlessReset_running hr, hostRetire, if_pos h, complete_badArg]
  case block =>
    change execBlock s = _
    simp only [execBlock, unlessReset_running hr, hostBlock, onSlot_badArg h]
  case unblock =>
    change execUnblock s = _
    simp only [execUnblock, unlessReset_running hr, hostUnblock, onSlot_badArg h]
  case clearTrips =>
    change execClearTrips s = _
    simp only [execClearTrips, unlessReset_running hr, hostClearTrips, onSlot_badArg h]
  case unknown =>
    change execUnknownCommand code s = _
    simp only [execUnknownCommand, unlessReset_running hr, runCommand_unknown h]

/-! ## EVENTS, EVMASK and INTn (R175, R176) -/

/-- A word of flags is not 0 where one of its bits is set. -/
theorem flags_ne_zero_iff (x : BitVec 10) : x ≠ 0 ↔ ∃ b : Nat, b < 10 ∧ x.getLsbD b = true := by
  constructor
  · intro h
    by_contra hno
    refine h (BitVec.eq_of_getLsbD_eq fun b hb => ?_)
    simpa using fun hbit => hno ⟨b, hb, hbit⟩
  · rintro ⟨b, -, hb⟩ rfl
    simp at hb

theorem intLow_iff (s : State) :
    intLow s = true ↔ ∃ b : Nat, b < 10 ∧ s.events.getLsbD b = true ∧ s.evmask.getLsbD b = true := by
  rw [intLow, bne_iff_ne, flags_ne_zero_iff]
  simp only [BitVec.getLsbD_and, Bool.and_eq_true]

/-- Settles O41: the written value masks the flags, and INTn is the conjunction of both words. -/
theorem eventsAndMask : Obligations.EventsAndMask := by
  intro v s
  refine ⟨fun hr => ⟨clearFlags v s, ?_, rfl, fun b hb => ?events⟩, fun hr => ⟨setEvmask v s, ?_, rfl, fun b hb => ?mask⟩,
    intLow_iff s⟩
  · exact congrArg Host.Outcome.next (unlessReset_running hr _)
  case events => simp [clearFlags, hb]
  · exact congrArg Host.Outcome.next (unlessReset_running hr _)
  case mask => simp [setEvmask, hb]

/-! ## RETIRE (R172) -/

theorem handleEntry_of_matches {s : State} {i : Idx} {gen : Nat} (ha : (s.entry i).state ≠ .free)
    (hg : (s.entry i).gen.toNat = gen) : handleEntry s i.val gen = some i := by
  simp [handleEntry, ha, hg]

theorem handleEntry_of_mismatch {s : State} {i : Idx} {gen : Nat}
    (h : (s.entry i).state = .free ∨ (s.entry i).gen.toNat ≠ gen) : handleEntry s i.val gen = none := by
  rcases h with h | h <;> simp [handleEntry, h]

theorem exec_retire_named {i : Idx} {s : State} (hr : s.inReset = false) (hi : s.arg0.toNat = i.val)
    (hg : s.arg1.toNat ≤ 255) :
    exec .retire s = .next (match handleEntry s i.val s.arg1.toNat with
      | none => { s with cmd := 0x03, result := 0x0300 }
      | some j => { retireNamed j s with cmd := 0x03, result := 0x0100 }) := by
  have hrange : ¬ (31 < s.arg0.toNat ∨ 255 < s.arg1.toNat) := by omega
  change execRetire s = _
  rw [execRetire, unlessReset_running hr, hostRetire, if_neg hrange, hi]
  cases handleEntry s i.val s.arg1.toNat <;> rfl

/-- Settles O36: the handle names the entry, and the rules of RETIRE go by its state. -/
theorem retireByState : Obligations.RetireByState := by
  intro i s hr hi hg
  have hex := exec_retire_named hr hi hg
  have hmatch (hm : (s.entry i).gen.toNat = s.arg1.toNat) (ha : (s.entry i).state ≠ .free) :
      exec .retire s = .next { retireNamed i s with cmd := 0x03, result := 0x0100 } := by
    rw [hex, handleEntry_of_matches ha hm]
  refine ⟨fun h => ?notFound, fun hm hst => ?waiting, fun hm hst => ?admitted, fun hm hst => ?live, fun hm hst => ?revoking,
    fun hm hst => ?retired⟩
  case notFound => rw [hex, handleEntry_of_mismatch h]
  case waiting => simp only [hmatch hm (by simp [hst]), retireNamed, hst]
  case admitted => rcases hst with hst | hst <;> simp only [hmatch hm (by simp [hst]), retireNamed, hst]
  case live => rcases hst with hst | hst | hst <;> simp only [hmatch hm (by simp [hst]), retireNamed, hst]
  case revoking => simp only [hmatch hm (by simp [hst]), retireNamed, hst]
  case retired => simp only [hmatch hm (by simp [hst]), retireNamed, hst]

/-! ## APPLY (R168) -/

theorem mem_allItems (x : Item) : x ∈ allItems := by cases x <;> decide

theorem pairwise_allItems : allItems.Pairwise fun x y => itemIndex x < itemIndex y := by decide

/-- The check of R168 on one item. -/
theorem itemFails_iff (s : State) (x : Item) :
    itemFails s x = true ↔ (s.staged[itemIndex x]).toNat < itemMin x ∨ itemMax x < (s.staged[itemIndex x]).toNat
      ∨ (x = .t2 ∧ (s.staged[itemIndex .t2]).toNat ≤ (s.staged[itemIndex .t1]).toNat)
      ∨ (x = .t3 ∧ (s.staged[itemIndex .t3]).toNat ≤ (s.staged[itemIndex .t2]).toNat) := by
  simp only [itemFails, Bool.or_eq_true, Bool.and_eq_true, beq_iff_eq, or_assoc, decide_eq_true_eq]
  rfl

theorem firstFailing_none {s : State} (h : ∀ x, ¬ itemFails s x = true) : firstFailing s = none :=
  List.find?_eq_none.mpr fun x _ => h x

/-- The search in register order finds the failing item that no failing one precedes. -/
theorem firstFailing_some {s : State} {x : Item} (hx : itemFails s x = true)
    (hfirst : ∀ y, itemIndex y < itemIndex x → ¬ itemFails s y = true) : firstFailing s = some x := by
  obtain ⟨before, after, hsplit⟩ := List.append_of_mem (mem_allItems x)
  refine List.find?_eq_some_iff_append.mpr ⟨hx, before, after, hsplit, fun y hy => ?_⟩
  have hlt : itemIndex y < itemIndex x := by
    have hp := pairwise_allItems
    rw [hsplit] at hp
    exact (List.pairwise_append.mp hp).2.2 y hy x List.mem_cons_self
  simpa using hfirst y hlt

theorem exec_apply_running {s : State} (hr : s.inReset = false) :
    exec .apply s = .next (match firstFailing s with
      | some x => complete 0x08 .invalid (0x40 + (itemIndex x).val) s
      | none => { bringIntoForce s with cmd := 0x08, result := 0x0100 }) := by
  change execApply s = _
  simp only [execApply, unlessReset_running hr, hostApply]
  cases firstFailing s <;> rfl

/-- RESULT of an INVALID with the register number of an item (R168). -/
theorem complete_invalid (s : State) (k : Nat) :
    complete 0x08 .invalid (0x40 + k) s = { s with cmd := 0x08, result := 0x0240 + BitVec.ofNat 16 k } := by
  have hsum : BitVec.ofNat 16 (0x0200 + (0x40 + k)) = 0x0240 + BitVec.ofNat 16 k := by
    rw [← Nat.add_assoc, BitVec.ofNat_add]
    rfl
  rw [← hsum]
  rfl

theorem bringIntoForce_unsupplied {s : State} (h : s.supply ≠ .operating) :
    bringIntoForce s = { s with active := s.staged } := by
  unfold bringIntoForce
  cases hs : s.supply <;> simp_all

theorem bringIntoForce_operating {s : State} {b : Band} (hs : s.supply = .operating) (hq : s.qualified = some b) :
    bringIntoForce s = judgeDeficit (recompute (operatingCapacity { s with active := s.staged } b)
      { s with active := s.staged }) := by
  simp only [bringIntoForce, hs, hq]

/-- C of a band that a capacity is configured for (Table 3-1). -/
theorem operatingCapacity_eq {s : State} {b : Band} {cap : Nat}
    (h : b = 1 ∧ cap = min (activeItem s .cap1) (activeItem s .ceiling)
      ∨ b = 2 ∧ cap = min (activeItem s .cap2) (activeItem s .ceiling)
      ∨ b = 3 ∧ cap = min (activeItem s .cap3) (activeItem s .ceiling)) : operatingCapacity s b = cap := by
  rcases h with ⟨rfl, rfl⟩ | ⟨rfl, rfl⟩ | ⟨rfl, rfl⟩ <;> rfl

theorem recompute_eq (cap : Nat) (s : State) :
    recompute cap s = rebalance (if cap + pendingTotal s < heldTotal s then shedPlan { s with capacity := cap }
      else { s with capacity := cap }) := rfl

/-- Settles O39: the search stops at the first failing item in register order, and a sound set is copied. -/
theorem applyChecksThenCopies : Obligations.ApplyChecksThenCopies := by
  refine ⟨recompute_eq, fun s hr => ?_⟩
  have hsound (h : ∀ x, ¬ itemFails s x = true) :
      exec .apply s = .next { bringIntoForce s with cmd := 0x08, result := 0x0100 } := by
    rw [exec_apply_running hr, firstFailing_none h]
  refine ⟨fun x hx hfirst => ?failing, fun hall hs => ?unsupplied, fun b cap hall hs hq hcap => ?operating⟩
  case failing =>
    have hsome := firstFailing_some ((itemFails_iff s x).mpr hx) fun y hy => (itemFails_iff s y).not.mpr (hfirst y hy)
    rw [exec_apply_running hr, hsome]
    exact congrArg Host.Outcome.next (complete_invalid s _)
  case unsupplied =>
    rw [hsound fun x => (itemFails_iff s x).not.mpr (hall x), bringIntoForce_unsupplied hs]
  case operating =>
    rw [hsound fun x => (itemFails_iff s x).not.mpr (hall x), bringIntoForce_operating hs hq,
      operatingCapacity_eq (s := { s with active := s.staged }) hcap]

end Sys2Proof.Machine
end

section
/-! PROOFS. The deficit flag (O43), the writes to an outbox (O44), and the end of an offer window and of a delivery limit
(O32). -/

namespace Sys2Proof.Machine

/-- Settles O43: the four cases of H > C before and after. -/
theorem deficitIsJudged : Obligations.DeficitIsJudged := by
  intro s
  refine ⟨judgeDeficit_eq s, ?_⟩
  unfold judgeDeficit
  by_cases hover : s.capacity < heldTotal s <;> cases hflag : s.deficit <;>
    simp [hover, hflag, raise, eventMask, eventBit, Nat.not_lt.mp, Nat.not_le.mpr]

theorem attn_iff (s : State) (n : Slot) : attn s n = true ↔ (s.outbox n).notices ≠ [] := by
  simp [attn]

/-- Settles O44: both writes replace one outbox and count one item. -/
theorem outboxWrites : Obligations.OutboxWrites := by
  intro s
  refine ⟨fun n kind st named gen state held extra => rfl, fun k i level => ?_, attn_iff s⟩
  have htells : Tells s (queueNotice k i level s) k i level := queueNotice_outbox k i level s
  refine ⟨rfl, fun m hm => htells.other hm, htells.reply, htells.notices, ?_⟩
  rw [attn_iff, htells.notices]
  simp

/-- Settles O32: each expiry acts in the state its deadline belongs to. -/
theorem lapseAndDeliveryLimit : Obligations.LapseAndDeliveryLimit := by
  intro i s hdue
  refine ⟨fun hst => ?_, fun hst => ?_⟩
  · change execOfferWindowExpiry i s = _
    rw [execOfferWindowExpiry, if_pos ((deadlineDue_iff s i _).mpr ⟨hst, hdue⟩)]
  · change execDeliveryLimitExpiry i s = _
    rw [execDeliveryLimitExpiry, if_pos ((deadlineDue_iff s i _).mpr ⟨hst, hdue⟩)]
    have hevents : (raise .noticeDrop (freeEntry i s)) = { freeEntry i s with events := s.events ||| 0x080 } := by
      rw [raise, (freeEntry_only i s).events]
      rfl
    rw [hevents]

end Sys2Proof.Machine
end

section
/-! PROOFS. The request validation order (chapter 7): the first failing step answers (O7), and what a handle must name (O8). -/

namespace Sys2Proof.Machine

/-- The record a refusal places (R124). -/
theorem refuse_eq (n : Slot) (msg : List Byte) (st : Status) (s : State) :
    refuse n msg st s =
      { s.setOutbox n { s.outbox n with
          reply := some { id := s.nextItem, kind := byteAt msg 0, status := st, overwritten := (s.outbox n).reply.isSome,
                          named := none, gen := 0, state := .free, held := 0, extra := 0 } } with
        nextItem := s.nextItem + 1 } := rfl

theorem onHandle_refused {s : State} {k : Kind} {n : Slot} {msg : List Byte} {st : Status}
    (h : refusalOf s k n msg = some st) (act : Idx → State → State) : onHandle k n msg act s = refuse n msg st s := by
  simp only [onHandle, h]

/-- Whatever its kind, a message that fails a step is refused with that step's status (R120). -/
theorem handleKind_refused {s : State} {k : Kind} {n : Slot} {msg : List Byte} {st : Status}
    (h : refusalOf s k n msg = some st) : handleKind k n msg s = refuse n msg st s := by
  cases k
  case claim => simp only [handleKind, handleClaim, h]
  case query => simp only [handleKind, handleQuery, h]
  all_goals exact onHandle_refused h _

/-- A message row that reaches the handler, with what its rules make of it. -/
theorem exec_kindCommand_taken {k : Kind} {n : Slot} {body : List Byte} {u s : State} (hs : startSeen u = s)
    (hr : s.inReset = false) (hw : windowValid s = true) (hl : body.length ≤ 15) (e : BusEnd) :
    exec (kindCommand k n body e) u = .next (enterBus (afterEnd e) (handleKind k n (kindByte k :: body) s)) := by
  subst hs
  rw [exec_kindCommand, writeMessage_taken n _ _ _ e u (by simpa using hr) (by simpa using hw) hl]

/-- The steps of Table 7-3, each with those before it passed. -/
theorem refusalOf_eq {s : State} {k : Kind} {n : Slot} {msg : List Byte} {st : Status}
    (h : (checkOk s.straps n msg = false ∧ st = .checkError)
      ∨ (checkOk s.straps n msg = true ∧ msg.length ≠ kindLength k ∧ st = .lengthError)
      ∨ (checkOk s.straps n msg = true ∧ msg.length = kindLength k ∧ fieldsInRange k msg = false ∧ st = .badValue)
      ∨ (checkOk s.straps n msg = true ∧ msg.length = kindLength k ∧ fieldsInRange k msg = true
         ∧ (s.slotRec n).seated = false ∧ st = .notSeated)
      ∨ (checkOk s.straps n msg = true ∧ msg.length = kindLength k ∧ fieldsInRange k msg = true
         ∧ (s.slotRec n).seated = true ∧ k = .claim
         ∧ ((s.slotRec n).state = .blocked ∧ st = .slotBlocked ∨ (s.slotRec n).state = .tripped ∧ st = .slotTripped))) :
    refusalOf s k n msg = some st := by
  rcases h with ⟨hc, rfl⟩ | ⟨hc, hl, rfl⟩ | ⟨hc, hl, hf, rfl⟩ | ⟨hc, hl, hf, hseat, rfl⟩ |
    ⟨hc, hl, hf, hseat, rfl, ⟨hst, rfl⟩ | ⟨hst, rfl⟩⟩
  all_goals simp [refusalOf, slotRefusal, *]

/-- Settles O7: every step's failure ends in the same reply. -/
theorem messagesRefusedInOrder : Obligations.MessagesRefusedInOrder := by
  refine ⟨fun k n body e u s st hs hr hw hl h => ?kinds, fun n b rest e u s st hs hr hw hl h => ?other⟩
  case kinds => rw [exec_kindCommand_taken hs hr hw hl e, handleKind_refused (refusalOf_eq h), refuse_eq]; rfl
  case other =>
    have hrefused : handleMessage n (b :: rest) s = refuse n (b :: rest) st s := by
      rcases h with ⟨hc, rfl⟩ | ⟨hc, hk, rfl⟩
      · simp [handleMessage, hc]
      · have hkind : kindOf (byteAt (b :: rest) 0) = none := hk
        simp [handleMessage, hc, hkind]
    subst hs
    change execRefusedMessage n (b :: rest) e u = _
    rw [execRefusedMessage, writeMessage_taken n b rest _ e u (by simpa using hr) (by simpa using hw) hl, hrefused, refuse_eq]
    rfl

/-! ## The handle (R13) -/

theorem handleEntry_stale {s : State} {index : Nat} {gen : Byte}
    (h : ∀ i : Idx, index = i.val → (s.entry i).state = .free ∨ (s.entry i).gen ≠ gen) :
    handleEntry s index gen.toNat = none := by
  by_cases hi : index < 32
  · refine handleEntry_of_mismatch (i := ⟨index, hi⟩) ((h ⟨index, hi⟩ rfl).imp_right fun hne heq => ?_)
    exact hne (BitVec.eq_of_toNat_eq heq)
  · exact dif_neg hi

theorem handleCheck_foreign {s : State} {n : Slot} {msg : List Byte} {i : Idx} (hi : (byteAt msg 1).toNat = i.val)
    (ha : (s.entry i).state ≠ .free) (hg : (s.entry i).gen = byteAt msg 2) (hn : (s.entry i).slot ≠ n) :
    handleCheck s n msg = .error .foreignHandle := by
  rw [handleCheck, hi, handleEntry_of_matches ha (congrArg _ hg)]
  simp [hn]

theorem handleKind_handleError {s : State} {k : Kind} {n : Slot} {msg : List Byte} {st : Status}
    (hk : k = .confirm ∨ k = .adjust ∨ k = .comply ∨ k = .renew ∨ k = .release) (hp : Passes s k n msg)
    (h : handleCheck s n msg = .error st) : handleKind k n msg s = refuse n msg st s := by
  have honHandle (act : Idx → State → State) : onHandle k n msg act s = refuse n msg st s := by
    simp only [onHandle, hp.refusalOf, h]
  rcases hk with rfl | rfl | rfl | rfl | rfl <;> exact honHandle _

/-- Settles O8: the check of the handle fails with the one status or the other. -/
theorem handleRefusals : Obligations.HandleRefusals := by
  intro k n body e u s st hs hk hp h
  have hcheck : handleCheck s n (kindByte k :: body) = .error st := by
    rcases h with ⟨hstale, rfl⟩ | ⟨⟨i, hi, ha, hg, hn⟩, rfl⟩
    · simp only [handleCheck, handleEntry_stale hstale]
    · exact handleCheck_foreign hi ha hg hn
  rw [exec_kindCommand_passes hs hp, handleKind_handleError hk hp hcheck]
  rfl

end Sys2Proof.Machine
end

section
/-! PROOFS. Requests on an entry: WRONG_STATE (O9), COMPLY (O14), RENEW (O15) and CONFIRM (O12). -/

namespace Sys2Proof.Machine

/-! ## WRONG_STATE (R41, R70, R85, R95) -/

theorem takeConfirm_wrongState {s : State} {i : Idx} (h : (s.entry i).state ≠ .offered) (n : Slot) (msg : List Byte) :
    takeConfirm n msg i s = wrongState n msg i s := by
  cases hst : (s.entry i).state <;> simp_all [takeConfirm]

theorem takeAdjust_wrongState {s : State} {i : Idx}
    (h : (s.entry i).state = .offered ∨ (s.entry i).state = .reducing ∨ (s.entry i).state = .revoking
      ∨ (s.entry i).state = .retired) (n : Slot) (msg : List Byte) :
    takeAdjust n msg i s = wrongState n msg i s := by
  rcases h with h | h | h | h <;> simp only [takeAdjust, h]

theorem takeComply_wrongState {s : State} {i : Idx} (h : (s.entry i).state ≠ .reducing) (n : Slot) (msg : List Byte) :
    takeComply n msg i s = wrongState n msg i s := by
  cases hst : (s.entry i).state <;> simp_all [takeComply]

theorem takeRenew_wrongState {s : State} {i : Idx} (h : countsLease (s.entry i).state = false ∨ (s.entry i).lease = 0)
    (n : Slot) (msg : List Byte) : takeRenew n msg i s = wrongState n msg i s := by
  rcases h with h | h <;> simp [takeRenew, h]

/-- Settles O9: each kind's rules end in the one reply that names the entry as it stands. -/
theorem wrongStateRefusals : Obligations.WrongStateRefusals := by
  intro k n body e u s i x hs hp hn hk hx
  have hreply : wrongState n (kindByte k :: body) i s
      = placeReply n (kindByte k) .wrongState (some i) (s.entry i).gen (s.entry i).state (s.entry i).held x s := by
    rw [wrongState, extraOf_eq hx]
    rfl
  rw [← hreply]
  rcases hk with ⟨rfl, hst⟩ | ⟨rfl, hst⟩ | ⟨rfl, hst⟩ | ⟨rfl, hst⟩
  · rw [exec_kindCommand_reaches rfl hs hp hn e, takeConfirm_wrongState hst]
  · rw [exec_kindCommand_reaches rfl hs hp hn e, takeAdjust_wrongState hst]
  · rw [exec_kindCommand_reaches rfl hs hp hn e, takeComply_wrongState hst]
  · rw [exec_kindCommand_reaches rfl hs hp hn e, takeRenew_wrongState hst]

/-! ## COMPLY (R70) -/

theorem takeComply_reducing {s : State} {i : Idx} {target : Nat} (hst : (s.entry i).state = .reducing)
    (ht : (s.entry i).target = some target) (n : Slot) (msg : List Byte) :
    takeComply n msg i s =
      if target < complyLevel msg then replyEntry n msg .levelMismatch i target s
      else
        let t := removeNotice n i .reduce (s.setEntry i (compliedEntry (s.entry i) target))
        judgeDeficit (rebalance (replyEntry n msg .accepted i (leaseLeft t (t.entry i)) t)) := by
  simp only [takeComply, hst, ht, Option.getD_some]

/-- Settles O14: the level is compared with the target. -/
theorem complyByLevel : Obligations.ComplyByLevel := by
  intro n body e u s i target hs hp hn hst ht
  have hex := exec_kindCommand_reaches (k := .comply) rfl hs hp hn e
  rw [takeComply_reducing hst ht] at hex
  refine ⟨fun hle => ?accepted, fun hlt => ?refused⟩
  case accepted =>
    rw [if_neg (Nat.not_lt.mpr hle)] at hex
    refine hex.trans ?_
    simp [replyEntry, compliedEntry]
    rfl
  case refused =>
    rw [if_pos hlt] at hex
    refine hex.trans ?_
    simp only [replyEntry, hst]
    rfl

/-! ## Lease periods (R91) -/

theorem newPeriod_leased (s : State) {lease : Nat} (h : lease ≠ 0) :
    newPeriod s lease = some { start := firstTick s, warnPoint := activeItem s .leasewarn, warned := false } := if_neg h

/-- No whole second of a period that starts now has elapsed. -/
theorem leaseLeft_newPeriod {s t : State} {e : Entry} (h : e.period = newPeriod s e.lease) (hnow : t.now = s.now) :
    leaseLeft t e = e.lease := by
  by_cases hl : e.lease = 0
  · simp [leaseLeft, h, newPeriod, hl]
  · have helapsed : ticks t - firstTick s = 0 := by simp only [ticks, firstTick, hnow]; omega
    simp [leaseLeft, h, newPeriod_leased s hl, helapsed]

/-- The entry with a new period of its full lease (R95). -/
def renewed (i : Idx) (s : State) : State :=
  s.setEntry i { s.entry i with period := newPeriod s (s.entry i).lease }

theorem takeRenew_counting {s : State} {i : Idx} (hcounts : countsLease (s.entry i).state = true)
    (hlease : (s.entry i).lease ≠ 0) (n : Slot) (msg : List Byte) :
    takeRenew n msg i s = placeReply n (byteAt msg 0) .accepted (some i) (s.entry i).gen (s.entry i).state
      (s.entry i).held (s.entry i).lease (removeNotice n i .leaseWarn (renewed i s)) := by
  have htake : (countsLease (s.entry i).state && (s.entry i).lease != 0) = true := by simp [hcounts, hlease]
  have hunfold : takeRenew n msg i s = replyEntry n msg .accepted i
      (leaseLeft (removeNotice n i .leaseWarn (renewed i s)) ((removeNotice n i .leaseWarn (renewed i s)).entry i))
      (removeNotice n i .leaseWarn (renewed i s)) := if_pos htake
  have hentry : (removeNotice n i .leaseWarn (renewed i s)).entry i
      = { s.entry i with period := newPeriod s (s.entry i).lease } := by simp [renewed]
  have hleft : leaseLeft (removeNotice n i .leaseWarn (renewed i s)) ((removeNotice n i .leaseWarn (renewed i s)).entry i)
      = (s.entry i).lease := by
    rw [hentry]
    exact leaseLeft_newPeriod (s := s) rfl rfl
  rw [hunfold, hleft, replyEntry, hentry]

/-- Settles O15: the new period starts with the whole lease left. -/
theorem renewStartsANewPeriod : Obligations.RenewStartsANewPeriod := by
  intro n body e u s i hs hp hn hcounts hlease
  refine (exec_kindCommand_reaches (k := .renew) rfl hs hp hn e).trans ?_
  rw [takeRenew_counting hcounts hlease, renewed, newPeriod_leased s hlease]
  rfl

/-! ## CONFIRM (R41 to R44) -/

theorem takeConfirm_offered {s : State} {i : Idx} (h : (s.entry i).state = .offered) (n : Slot) (msg : List Byte) :
    takeConfirm n msg i s =
      (let t := confirmEntry i (removeNotice n i .offer s)
       replyEntry n msg .accepted i (leaseLeft t (t.entry i)) t) := by
  simp only [takeConfirm, h]

/-- The state in which the entry has taken the offer with its OFFER notice gone (R42, R44). -/
def confirmed (n : Slot) (i : Idx) (st : EntryState) (s : State) : State :=
  (removeNotice n i .offer s).setEntry i (confirmedEntry s (s.entry i) st)

/-- The reply to a CONFIRM, from any hand-off that gives the entry its state (R44). -/
theorem replyEntry_confirmed {s t : State} {i : Idx} {st : EntryState} (n : Slot) (msg : List Byte)
    (he : t.entry i = confirmedEntry s (s.entry i) st) (hnow : t.now = s.now) :
    replyEntry n msg .accepted i (leaseLeft t (t.entry i)) t
      = placeReply n (byteAt msg 0) .accepted (some i) (s.entry i).gen st (s.entry i).held (s.entry i).lease t := by
  have hleft : leaseLeft t (t.entry i) = (s.entry i).lease := by
    rw [he]
    exact leaseLeft_newPeriod (s := s) rfl hnow
  rw [hleft, replyEntry, he]
  rfl

theorem exec_confirm_offered {n : Slot} {body : List Byte} {u s t : State} {i : Idx} {st : EntryState}
    (hs : startSeen u = s) (hp : Passes s .confirm n (kindByte .confirm :: body))
    (hn : NamesEntry s n (kindByte .confirm :: body) i) (hoffered : (s.entry i).state = .offered)
    (ht : confirmEntry i (removeNotice n i .offer s) = t) (he : t.entry i = confirmedEntry s (s.entry i) st)
    (e : BusEnd) :
    exec (.confirm n body e) u = .next (enterBus (afterEnd e)
      (placeReply n 0x02 .accepted (some i) (s.entry i).gen st (s.entry i).held (s.entry i).lease t)) := by
  have hnow : t.now = s.now := by rw [← ht, (confirmEntry_only i _).now]; rfl
  refine (exec_kindCommand_reaches (k := .confirm) rfl hs hp hn e).trans ?_
  rw [takeConfirm_offered hoffered, ht]
  dsimp only
  rw [replyEntry_confirmed n _ he hnow]
  rfl

/-! The hand-off by the slot's state (Table 2-5) -/

theorem confirmEntry_on {n : Slot} {i : Idx} {s : State} (hn : (s.entry i).slot = n) (h : (s.slotRec n).state = .on) :
    confirmEntry i (removeNotice n i .offer s) = confirmed n i (poweredState (s.entry i)) s := by
  subst hn
  simp only [confirmEntry, removeNotice_entry, removeNotice_slotRec, h]
  rfl

theorem confirmEntry_waits {n : Slot} {i : Idx} {s : State} (hn : (s.entry i).slot = n)
    (h : (s.slotRec n).state = .queued ∨ (s.slotRec n).state = .suspended) :
    confirmEntry i (removeNotice n i .offer s) = confirmed n i .enabling s := by
  subst hn
  rcases h with h | h <;> simp only [confirmEntry, removeNotice_entry, removeNotice_slotRec, h] <;> rfl

theorem confirmEntry_idle {n : Slot} {i : Idx} {s : State} (hn : (s.entry i).slot = n) (h : (s.slotRec n).state = .idle) :
    confirmEntry i (removeNotice n i .offer s) = gainNeed n (s.entry i).cls (confirmed n i .enabling s) := by
  subst hn
  simp only [confirmEntry, removeNotice_entry, removeNotice_slotRec, h]
  rfl

/-- Behind the slots whose key is at least c stand only slots with lower keys (R151). -/
theorem joinInrush_behind {s : State} (c : Sys2Proof.Class) {l : List Slot}
    (h : l.Pairwise fun m k => (s.slotRec k).key.getD 0 ≤ (s.slotRec m).key.getD 0) :
    ∀ m ∈ l.dropWhile (fun m => decide (c ≤ (s.slotRec m).key.getD 0)), (s.slotRec m).key.getD 0 < c := by
  induction l with
  | nil => simp
  | cons a l ih =>
    obtain ⟨ha, hl⟩ := List.pairwise_cons.mp h
    by_cases hc : c ≤ (s.slotRec a).key.getD 0
    · rw [List.dropWhile_cons_of_pos (by simpa using hc)]
      exact ih hl
    · rw [List.dropWhile_cons_of_neg (by simpa using hc)]
      intro m hm
      rcases List.mem_cons.mp hm with rfl | hm
      · exact not_le.mp hc
      · exact lt_of_le_of_lt (ha m hm) (not_le.mp hc)

/-- Settles O12: the rows of Table 2-5, with the place in the Inrush Queue that the class gives. -/
theorem confirmAccepted : Obligations.ConfirmAccepted := by
  intro n body e u s i hs hp hn hoffered
  have hex {t : State} {st : EntryState} (ht : confirmEntry i (removeNotice n i .offer s) = t)
      (he : t.entry i = confirmedEntry s (s.entry i) st) := exec_confirm_offered hs hp hn hoffered ht he e
  have hentry (st : EntryState) : (confirmed n i st s).entry i = confirmedEntry s (s.entry i) st := by simp [confirmed]
  refine ⟨fun hon hheld => ?active, fun hon hheld => ?reduced, fun hidle hsupply hkeys => ?joins, fun hidle hsupply => ?held,
    fun hwait => ?waits⟩
  case active =>
    have hpower : poweredState (s.entry i) = .active := if_pos hheld
    exact hex ((confirmEntry_on hn.slot hon).trans (by rw [hpower]; rfl)) (hentry .active)
  case reduced =>
    have hpower : poweredState (s.entry i) = .reduced := if_neg hheld
    exact hex ((confirmEntry_on hn.slot hon).trans (by rw [hpower]; rfl)) (hentry .reduced)
  case joins =>
    refine ⟨s.inrush.takeWhile fun m => decide ((s.entry i).cls ≤ (s.slotRec m).key.getD 0), _,
      List.takeWhile_append_dropWhile.symm, fun m hm => ?_, joinInrush_behind _ hkeys, ?_⟩
    · simpa using List.mem_takeWhile_imp hm
    · refine hex ?_ (hentry .enabling)
      rw [confirmEntry_idle hn.slot hidle]
      simp only [gainNeed, confirmed, setEntry_supply]
      rw [show (removeNotice n i .offer s).supply = .operating from hsupply]
      rfl
  case held =>
    refine hex ?_ (hentry .enabling)
    rw [confirmEntry_idle hn.slot hidle]
    simp only [gainNeed, confirmed, setEntry_supply]
    rw [show (removeNotice n i .offer s).supply = .hold from hsupply]
    rfl
  case waits => exact hex (confirmEntry_waits hn.slot hwait) (hentry .enabling)

end Sys2Proof.Machine
end

section
/-! PROOFS. CLAIM (chapter 2): its refusals in the order of Table 2-1 (O10), and what an accepted one records (O11). -/

namespace Sys2Proof.Machine

theorem findTag_isSome_iff (s : State) (n : Slot) (t : Tag) : (findTag s n t).isSome = true ↔ HoldsTag s n t := by
  rw [Option.isSome_iff_ne_none, ne_eq, findTag_none_iff, not_not]

theorem handleClaim_passes {s : State} {n : Slot} {msg : List Byte} (hp : Passes s .claim n msg) :
    handleClaim n msg s = takeClaim n msg s := by
  simp only [handleClaim, hp.refusalOf]

theorem exec_claim_passes {n : Slot} {body : List Byte} {u s : State} (hs : startSeen u = s)
    (hp : Passes s .claim n (kindByte .claim :: body)) (e : BusEnd) :
    exec (.claim n body e) u = .next (enterBus (afterEnd e) (takeClaim n (kindByte .claim :: body) s)) := by
  rw [← handleClaim_passes hp]
  exact exec_kindCommand_passes hs hp e

/-! ## The refusals of Table 2-1 -/

/-- The rows of Table 2-1, each with those above it passed (R25, R26). -/
theorem claimCheck_refused {s : State} {n : Slot} {f : ClaimFields} {st : Status}
    (h : (HoldsTag s n f.tag ∧ st = .duplicateTag)
      ∨ (¬ HoldsTag s n f.tag ∧ 4 ≤ countWhere s (ofSlot n) ∧ st = .slotFull)
      ∨ (¬ HoldsTag s n f.tag ∧ countWhere s (ofSlot n) < 4 ∧ (∀ i : Idx, (s.entry i).state ≠ .free) ∧ st = .tableFull)
      ∨ (¬ HoldsTag s n f.tag ∧ countWhere s (ofSlot n) < 4 ∧ (∃ i : Idx, (s.entry i).state = .free)
         ∧ ¬ WouldOffer s f.cls f.floor ∧ 16 ≤ countWhere s (fun e => e.state == .waiting) ∧ st = .queueFull)) :
    claimCheck s n f = .error st := by
  unfold claimCheck
  rcases h with ⟨htag, rfl⟩ | ⟨htag, hcount, rfl⟩ | ⟨htag, hcount, hfree, rfl⟩ | ⟨htag, hcount, ⟨i, hi⟩, hoffer, hqueue, rfl⟩
  · rw [if_pos ((findTag_isSome_iff ..).mpr htag)]
  · rw [if_neg ((findTag_isSome_iff ..).not.mpr htag), if_pos hcount]
  · rw [if_neg ((findTag_isSome_iff ..).not.mpr htag), if_neg (Nat.not_le.mpr hcount), (lowestFree_none_iff s).mpr hfree]
  · rw [if_neg ((findTag_isSome_iff ..).not.mpr htag), if_neg (Nat.not_le.mpr hcount)]
    have hadmit : admissible s f.cls f.floor = false := by simpa using (admissible_iff s _ _).not.mpr hoffer
    cases hfree : lowestFree s with
    | none => exact absurd hi ((lowestFree_none_iff s).mp hfree i)
    | some j => simp [hadmit, hqueue]

/-- Settles O10: the checks of a CLAIM run in the order of Table 2-1, and a failing one refuses. -/
theorem claimRefusals : Obligations.ClaimRefusals := by
  intro n body e u s st hs hp h
  rw [exec_claim_passes hs hp]
  simp only [takeClaim, claimCheck_refused h]
  rfl

/-! ## The entry recorded -/

/-- A claim that no row of Table 2-1 refuses goes to the lowest FREE entry (R14). -/
theorem claimCheck_ok {s : State} {n : Slot} {f : ClaimFields} {i : Idx} (htag : ¬ HoldsTag s n f.tag)
    (hcount : countWhere s (ofSlot n) < 4) (hi : LowestFree s i)
    (hroom : WouldOffer s f.cls f.floor ∨ countWhere s (fun e => e.state == .waiting) < 16) :
    claimCheck s n f = .ok i := by
  have hqueue : (!admissible s f.cls f.floor && decide (16 ≤ countWhere s fun e => e.state == .waiting)) = false := by
    rcases hroom with hoffer | hroom
    · simp [(admissible_iff s _ _).mpr hoffer]
    · simp [hroom]
  rw [claimCheck, if_neg ((findTag_isSome_iff ..).not.mpr htag), if_neg (Nat.not_le.mpr hcount), lowestFree_eq hi]
  simp [hqueue]

theorem ListsOk.not_mem_waitQueue {s : State} (h : ListsOk s) {i : Idx} (hi : (s.entry i).state ≠ .waiting) :
    i ∉ s.waitQueue := fun hmem => hi ((h.2.2.1 i).mp hmem)

theorem ListsOk.not_mem_admission {s : State} (h : ListsOk s) {i : Idx} (hi : isAdmitted (s.entry i).state = false) :
    i ∉ s.admission := fun hmem => by simp [(h.2.2.2.1 i).mp hmem] at hi

theorem filter_ne_of_not_mem {l : List Idx} {i : Idx} (h : i ∉ l) : l.filter (· != i) = l :=
  List.filter_eq_self.mpr fun j hj => bne_iff_ne.mpr fun heq : j = i => h (heq ▸ hj)

theorem setEntry_setEntry (s : State) (i : Idx) (e x : Entry) : (s.setEntry i e).setEntry i x = s.setEntry i x := by
  simp only [State.setEntry, Vector.set_set]

/-- The state in which a claim is recorded in entry i, in the state and with the held level and deadline given (R3, R14). -/
def recordClaim (i : Idx) (n : Slot) (f : ClaimFields) (st : EntryState) (held : Nat) (deadline : Option Nat) (s : State) :
    State :=
  s.setEntry i { recordedEntry (s.entry i) n f with state := st, held := held, deadline := deadline }

/-- A claim offered at once stands in neither list before (R28, R29). -/
theorem claimOffered_eq {s : State} {i : Idx} (hl : ListsOk s) (hi : (s.entry i).state = .free) (n : Slot)
    (f : ClaimFields) :
    claimOffered i n f s =
      { recordClaim i n f .offered (min f.requested (headroom s)) (some (firstTick s + 10 * activeItem s .offerw)) s with
        admission := s.admission ++ [i] } := by
  have hwait : i ∉ s.waitQueue := hl.not_mem_waitQueue (by simp [hi])
  have hadmit : i ∉ s.admission := hl.not_mem_admission (by simp [hi, isAdmitted])
  simp only [claimOffered, offerEntry, leaveLists, entry_setEntry_same, setEntry_setEntry, setEntry_waitQueue,
    setEntry_admission, filter_ne_of_not_mem hwait, filter_ne_of_not_mem hadmit]
  rfl

/-- The whole offer window is left at its start (R29, Table 1-4). -/
theorem extraOf_offered {s t : State} {i : Idx} (hst : (t.entry i).state = .offered)
    (hd : (t.entry i).deadline = some (firstTick s + 10 * activeItem s .offerw)) (hnow : t.now = s.now) :
    extraOf t i = activeItem s .offerw := by
  have hleft : tensLeft t (t.entry i).deadline = activeItem s .offerw := by
    simp only [tensLeft, msLeft, hd, firstTick, hnow]
    omega
  simp only [extraOf, hst, hleft]

/-- Behind the entries of at least class c stand only entries of lower classes (R30). -/
theorem joinBehind_behind {s : State} (c : Sys2Proof.Class) {l : List Idx}
    (h : l.Pairwise fun i j => (s.entry j).cls ≤ (s.entry i).cls) :
    ∀ j ∈ l.dropWhile (fun j => decide (c ≤ (s.entry j).cls)), (s.entry j).cls < c := by
  induction l with
  | nil => simp
  | cons a l ih =>
    obtain ⟨ha, hl⟩ := List.pairwise_cons.mp h
    by_cases hc : c ≤ (s.entry a).cls
    · rw [List.dropWhile_cons_of_pos (by simpa using hc)]
      exact ih hl
    · rw [List.dropWhile_cons_of_neg (by simpa using hc)]
      intro j hj
      rcases List.mem_cons.mp hj with rfl | hj
      · exact not_le.mp hc
      · exact lt_of_le_of_lt (ha j hj) (not_le.mp hc)

theorem waitingAhead_joined {s : State} {ahead behind : List Idx} {i : Idx} (hq : s.waitQueue = ahead ++ i :: behind)
    (hi : i ∉ ahead) : waitingAhead s i = ahead.length := by
  rw [waitingAhead, length_takeWhile_ne, hq, List.idxOf_append_of_notMem hi]
  simp

theorem takeClaim_offered {s : State} {n : Slot} {msg : List Byte} {i : Idx} (hl : ListsOk s)
    (hi : (s.entry i).state = .free) (hcheck : claimCheck s n (claimFields msg) = .ok i)
    (hoffer : WouldOffer s (claimFields msg).cls (claimFields msg).floor) :
    takeClaim n msg s =
      judgeDeficit (placeReply n (byteAt msg 0) .accepted (some i) (s.entry i).gen .offered
        (min (claimFields msg).requested (headroom s)) (activeItem s .offerw)
        { recordClaim i n (claimFields msg) .offered (min (claimFields msg).requested (headroom s))
            (some (firstTick s + 10 * activeItem s .offerw)) s with
          admission := s.admission ++ [i] }) := by
  have hentry : (claimOffered i n (claimFields msg) s).entry i
      = { recordedEntry (s.entry i) n (claimFields msg) with
          state := .offered, held := min (claimFields msg).requested (headroom s)
          deadline := some (firstTick s + 10 * activeItem s .offerw) } := by
    rw [claimOffered_eq hl hi]
    exact entry_setEntry_same ..
  have hextra : extraOf (claimOffered i n (claimFields msg) s) i = activeItem s .offerw :=
    extraOf_offered (by rw [hentry]) (by rw [hentry]) (claimOffered_only i n _ s).now
  simp only [takeClaim, hcheck, if_pos ((admissible_iff s _ _).mpr hoffer), hextra, replyEntry, hentry]
  rw [claimOffered_eq hl hi]
  rfl

theorem takeClaim_waiting {s : State} {n : Slot} {msg : List Byte} {i : Idx} (hl : ListsOk s)
    (hi : (s.entry i).state = .free) (hcheck : claimCheck s n (claimFields msg) = .ok i)
    (hoffer : ¬ WouldOffer s (claimFields msg).cls (claimFields msg).floor) :
    takeClaim n msg s =
      judgeDeficit (placeReply n (byteAt msg 0) .accepted (some i) (s.entry i).gen .waiting 0
        (s.waitQueue.takeWhile fun j => decide ((claimFields msg).cls ≤ (s.entry j).cls)).length
        { recordClaim i n (claimFields msg) .waiting 0 none s with
          waitQueue := joinBehind s (claimFields msg).cls i }) := by
  have hahead : i ∉ s.waitQueue.takeWhile fun j => decide ((claimFields msg).cls ≤ (s.entry j).cls) := fun hmem =>
    hl.not_mem_waitQueue (by simp [hi]) (List.takeWhile_subset _ hmem)
  have hentry : (claimWaiting i n (claimFields msg) s).entry i
      = { recordedEntry (s.entry i) n (claimFields msg) with state := .waiting } := entry_setEntry_same ..
  have hextra : extraOf (claimWaiting i n (claimFields msg) s) i
      = (s.waitQueue.takeWhile fun j => decide ((claimFields msg).cls ≤ (s.entry j).cls)).length := by
    simp only [extraOf, hentry]
    exact waitingAhead_joined rfl hahead
  simp only [takeClaim, hcheck, if_neg ((admissible_iff s _ _).not.mpr hoffer), hextra, replyEntry, hentry]
  rfl

/-- Settles O11: the entry is recorded and either offered with its whole window or put behind its class. -/
theorem claimRecorded : Obligations.ClaimRecorded := by
  intro n body e u s i hs hl hp f level recorded htag hcount hfree
  have hex := exec_claim_passes hs hp e
  refine ⟨fun hoffer => ?offered, fun hoffer hroom => ?waiting⟩
  case offered =>
    rw [hex, takeClaim_offered hl hfree.1 (claimCheck_ok htag hcount hfree (.inl hoffer)) hoffer]
    rfl
  case waiting =>
    refine ⟨s.waitQueue.takeWhile fun j => decide (f.cls ≤ (s.entry j).cls), _, List.takeWhile_append_dropWhile.symm,
      fun j hj => by simpa using List.mem_takeWhile_imp hj, joinBehind_behind _ hl.2.2.2.2, ?_⟩
    rw [hex, takeClaim_waiting hl hfree.1 (claimCheck_ok htag hcount hfree (.inr hroom)) hoffer]
    rfl

end Sys2Proof.Machine
end

section
/-! PROOFS. Time (00_scope.md, section 4): the step on an empty queue and the events due (O2). -/

namespace Sys2Proof.Machine

theorem due_some_iff (s : State) (t : Nat) : due s (some t) = true ↔ 2 * t ≤ s.now := by
  change decide (t ≤ ticks s) = true ↔ _
  rw [decide_eq_true_iff, ticks]
  omega

theorem mem_slotEventsDue (c : Instr) (s : State) (n : Slot) :
    c ∈ slotEventsDue s n ↔
      c = .presenceTimerExpiry n ∧ due s (s.slotRec n).presence = true
      ∨ c = .blankingTimerExpiry n ∧ due s (s.slotRec n).blanking = true
      ∨ c = .trip n ∧ (s.slotRec n).state = .on ∧ due s (s.slotRec n).fault = true
      ∨ c = .cooldownExpiry n ∧ (s.slotRec n).state = .tripped ∧ due s (s.slotRec n).cooldown = true
      ∨ c = .stableTimerExpiry n ∧ due s (s.slotRec n).stable = true := by
  simp only [slotEventsDue, List.mem_append, mem_eventIf, tripDue, cooldownDue, Bool.and_eq_true, beq_iff_eq, or_assoc]

theorem mem_entryEventsDue {c : Instr} {s : State} {i : Idx} (h : EntryOk (s.entry i)) :
    c ∈ entryEventsDue s i ↔
      (due s (s.entry i).deadline = true
        ∧ (c = .offerWindowExpiry i ∧ (s.entry i).state = .offered
          ∨ c = .reduceGraceExpiry i ∧ (s.entry i).state = .reducing
          ∨ c = .revokeGraceExpiry i ∧ (s.entry i).state = .revoking
          ∨ c = .deliveryLimitExpiry i ∧ (s.entry i).state = .retired))
      ∨ (∃ p, (s.entry i).period = some p
          ∧ (c = .leaseExpiry i ∧ p.start + 1000 * (s.entry i).lease ≤ ticks s
            ∨ c = .warningPoint i ∧ p.warned = false ∧ p.warnPoint < (s.entry i).lease
              ∧ p.start + 1000 * ((s.entry i).lease - p.warnPoint) ≤ ticks s)) := by
  simp only [entryEventsDue, List.mem_append, mem_eventIf, deadlineDue_iff, leaseDue_iff h, warningDue_iff h]
  constructor
  · rintro (((((⟨rfl, hst, hd⟩ | ⟨rfl, hst, hd⟩) | ⟨rfl, hst, hd⟩) | ⟨rfl, hst, hd⟩) | ⟨rfl, p, hp, hrun⟩) | ⟨rfl, p, hp, hrun⟩)
    · exact .inl ⟨hd, .inl ⟨rfl, hst⟩⟩
    · exact .inl ⟨hd, .inr (.inl ⟨rfl, hst⟩)⟩
    · exact .inl ⟨hd, .inr (.inr (.inl ⟨rfl, hst⟩))⟩
    · exact .inl ⟨hd, .inr (.inr (.inr ⟨rfl, hst⟩))⟩
    · exact .inr ⟨p, hp, .inl ⟨rfl, hrun⟩⟩
    · exact .inr ⟨p, hp, .inr ⟨rfl, hrun⟩⟩
  · rintro (⟨hd, ⟨rfl, hst⟩ | ⟨rfl, hst⟩ | ⟨rfl, hst⟩ | ⟨rfl, hst⟩⟩ | ⟨p, hp, ⟨rfl, hrun⟩ | ⟨rfl, hrun⟩⟩)
    · exact .inl (.inl (.inl (.inl (.inl ⟨rfl, hst, hd⟩))))
    · exact .inl (.inl (.inl (.inl (.inr ⟨rfl, hst, hd⟩))))
    · exact .inl (.inl (.inl (.inr ⟨rfl, hst, hd⟩)))
    · exact .inl (.inl (.inr ⟨rfl, hst, hd⟩))
    · exact .inl (.inr ⟨rfl, p, hp, hrun⟩)
    · exact .inr ⟨rfl, p, hp, hrun⟩

theorem mem_stallEventsDue (c : Instr) (s : State) :
    c ∈ (s.stallTimer.toList.filter (stallDue s)).map Instr.stallTimerExpiry ↔
      ∃ tick, c = .stallTimerExpiry tick ∧ takesPart s.bus = true ∧ s.stallTimer = some tick
        ∧ due s s.stallTimer = true := by
  simp only [List.mem_map, List.mem_filter, Option.mem_toList, stallDue, Bool.and_eq_true, beq_iff_eq]
  refine exists_congr fun tick => ⟨?_, ?_⟩
  · rintro ⟨⟨hrun, ⟨hpart, -⟩, hdue⟩, rfl⟩
    exact ⟨rfl, hpart, hrun, hrun ▸ hdue⟩
  · rintro ⟨rfl, hpart, hrun, hdue⟩
    exact ⟨⟨hrun, ⟨hpart, hrun⟩, hrun ▸ hdue⟩, rfl⟩

/-- The events due, group by group. -/
theorem mem_eventsDue (c : Instr) (s : State) :
    c ∈ eventsDue s ↔
      c = .qualificationTimerExpiry ∧ s.candidate.isSome = true ∧ due s s.qualTimer = true
      ∨ c = .holdTimerExpiry ∧ s.supply = .hold ∧ due s s.holdTimer = true
      ∨ (∃ tick, c = .stallTimerExpiry tick ∧ takesPart s.bus = true ∧ s.stallTimer = some tick
          ∧ due s s.stallTimer = true)
      ∨ (∃ n, c ∈ slotEventsDue s n) ∨ (∃ i, c ∈ entryEventsDue s i)
      ∨ c = .turnOn ∧ atTick s = true ∧ s.supply = .operating ∧ s.inrush ≠ []
          ∧ ∀ t, s.lastOn = some t → t + activeItem s .inrush ≤ ticks s := by
  have hslots : c ∈ allSlots.flatMap (slotEventsDue s) ↔ ∃ n, c ∈ slotEventsDue s n := by
    simp only [List.mem_flatMap, mem_allSlots, true_and]
  have hentries : c ∈ allIdx.flatMap (entryEventsDue s) ↔ ∃ i, c ∈ entryEventsDue s i := by
    simp only [List.mem_flatMap, mem_allIdx, true_and]
  simp only [eventsDue, List.mem_append, mem_eventIf, mem_stallEventsDue, hslots, hentries, turnOnDue_iff, duration_inrush,
    holdDue, Bool.and_eq_true, beq_iff_eq, or_assoc]

/-- Whatever the free value picks stands among the events due (assumption 2). -/
theorem chooseEvent_mem (s : State) (first : Instr) (rest : List Instr) : chooseEvent s first rest ∈ first :: rest := by
  cases rest with
  | nil => exact List.mem_cons_self
  | cons second rest =>
    have hlt : Config.tieBreak s.ties % (first :: second :: rest).length < (first :: second :: rest).length :=
      Nat.mod_lt _ (by simp)
    rw [chooseEvent, List.getD_eq_getElem _ _ hlt]
    exact List.getElem_mem hlt

theorem step_idle {s : State} (h : s.pending = []) : step s = .next (idle s) := by rw [step, h]

theorem idle_wire {s : State} {w : Wire} {rest : List Wire} (h : s.wires = w :: rest) :
    idle s = takeWire w { s with wires := rest } := by rw [idle, h]

theorem idle_noWire {s : State} (h : s.wires = []) : idle s = passTime s := by rw [idle, h]

theorem passTime_quiet {s : State} (h : eventsDue s = []) : passTime s = { s with now := s.now + 1 } := by rw [passTime, h]

theorem passTime_due {s : State} {first : Instr} {rest : List Instr} (h : eventsDue s = first :: rest) :
    passTime s = { s with pending := [chooseEvent s first rest], ties := s.ties + 1 } := by rw [passTime, h]

/-- Settles O2: the list of events due, group by group, and the cases of the idle step. -/
theorem idleStepPassesTimeOrTakesADueEvent : Obligations.IdleStepPassesTimeOrTakesADueEvent := by
  refine ⟨fun s => ⟨rfl, rfl, by simp [atTick], rfl, due_some_iff s⟩, fun c s h => ?events, fun s hp => ?idle⟩
  case events =>
    simp only [mem_eventsDue, mem_slotEventsDue, mem_entryEventsDue (h _), exists_or, or_assoc]
  case idle =>
    rw [step_idle hp]
    refine ⟨fun w rest hw => by rw [idle_wire hw], fun hw hnone => by rw [idle_noWire hw, passTime_quiet hnone],
      fun hw hsome => ?_⟩
    obtain ⟨first, rest, hdue⟩ := List.exists_cons_of_ne_nil hsome
    exact ⟨chooseEvent s first rest, hdue ▸ chooseEvent_mem s first rest, by rw [idle_noWire hw, passTime_due hdue]⟩

end Sys2Proof.Machine
end

section
/-! PROOFS. Device reset (chapters 1 and 10): the state it leaves, what RSTn held low stops (O5), and the invariant of that
state (O6). -/

namespace Sys2Proof.Machine

/-! ## A state with every block in its reset state -/

/-- Every block in its reset state with the strap value k, whatever the queues, the time, the pins, the frame and RSTn are. -/
structure BlocksReset (k : BitVec 3) (s : State) : Prop where
  eq : s = { State.resetWith k with
             pending := s.pending, now := s.now, ties := s.ties, pins := s.pins, wires := s.wires, frame := s.frame
             inReset := s.inReset }

section
variable {k : BitVec 3} {s : State}

theorem BlocksReset.entry (h : BlocksReset k s) (i : Idx) : s.entry i = blankEntry := by
  rw [h.eq]; exact Vector.getElem_replicate ..

theorem BlocksReset.slotRec (h : BlocksReset k s) (n : Slot) : s.slotRec n = emptySlot := by
  rw [h.eq]; exact Vector.getElem_replicate ..

theorem BlocksReset.outbox (h : BlocksReset k s) (n : Slot) : s.outbox n = emptyOutbox := by
  rw [h.eq]; exact Vector.getElem_replicate ..

theorem BlocksReset.countWhere (h : BlocksReset k s) {p : Entry → Bool} (hp : p blankEntry = false) : countWhere s p = 0 := by
  simp [Machine.countWhere, entriesWhere, h.entry, hp]

theorem BlocksReset.heldTotal (h : BlocksReset k s) : heldTotal s = 0 := by
  simp [Machine.heldTotal, h.entry, blankEntry]

theorem BlocksReset.pendingTotal (h : BlocksReset k s) : pendingTotal s = 0 := by
  simp [Machine.pendingTotal, h.entry, pendingOf, blankEntry]

end

/-! ## The invariant (O6) -/

theorem blankEntry_ok : EntryOk blankEntry := by
  simp [EntryOk, blankEntry, isAdmitted, countsLease]

theorem ConfigOk.of_active {s t : State} (h : t.active = s.active) (hs : ConfigOk s) : ConfigOk t := by
  have hitem (x : Item) : activeItem t x = activeItem s x := by rw [activeItem, h]; rfl
  simpa only [ConfigOk, hitem] using hs

theorem defaultConfig_ok {s : State} (h : s.active = defaultConfig) : ConfigOk s :=
  ConfigOk.of_active (s := State.resetWith 0) h (by unfold ConfigOk; decide)

/-- The invariant asks nothing of the queues and the time of a state whose blocks are in their reset state, and of its frame
only that it agrees with CSn and RSTn. -/
theorem BlocksReset.inv {k : BitVec 3} {s : State} (h : BlocksReset k s) (hf : FrameOk s)
    (hr : s.inReset = true → s.frame = .closed) : Inv s where
  entries i := by rw [h.entry]; exact blankEntry_ok
  lists := by
    have hwait : s.waitQueue = [] := by rw [h.eq]; rfl
    have hadmission : s.admission = [] := by rw [h.eq]; rfl
    simp [ListsOk, hwait, hadmission, h.entry, blankEntry, isAdmitted]
  limits := by
    refine ⟨fun n => ?_, fun i j hi => ?_⟩
    · rw [h.countWhere (by simp [ofSlot, blankEntry])]
      omega
    · simp [h.entry, blankEntry] at hi
  config := defaultConfig_ok (by rw [h.eq]; rfl)
  supply := by rw [h.eq]; simp [SupplyOk, State.resetWith]
  capacity := by
    refine ⟨by rw [h.eq]; simp [State.resetWith], fun _ => ⟨by rw [h.eq]; rfl, fun i => ?_⟩, fun hop => ?_⟩
    · rw [h.entry]; rfl
    · rw [h.eq] at hop; cases hop
  budget := by
    have hcapacity : s.capacity = 0 := by rw [h.eq]; rfl
    have hdeficit : s.deficit = false := by rw [h.eq]; rfl
    simp [BudgetOk, h.heldTotal, hcapacity, hdeficit]
  slots := by
    have hinrush : s.inrush = [] := by rw [h.eq]; rfl
    have hneed (n : Slot) : hasNeed s n = false := by simp [hasNeed, h.entry, ofSlotIn, ofSlot, blankEntry]
    refine ⟨fun n => ?_, by simp [hinrush], by simp [hinrush]⟩
    simp [SlotOk, h.slotRec, h.entry, hneed, hinrush, emptySlot, blankEntry, ofSlot]
  notices := by
    refine ⟨fun n => ?_, fun i hi => ?_⟩
    · simp [OutboxOk, h.outbox, emptyOutbox]
    · simp [h.entry, blankEntry] at hi
  timers := by
    refine ⟨fun i => ?_, fun n => ?_, ?_, ?_, ?_, ?_⟩
    · simp [EntryAhead, Ahead, h.entry, blankEntry]
    · simp [Ahead, h.slotRec, emptySlot]
    all_goals rw [h.eq]; simp [Ahead, State.resetWith]
  ports := by
    refine ⟨by rw [h.eq]; rfl, ?_, ?_, ?_, ?_, hf⟩
    all_goals rw [h.eq]; simp [State.resetWith, takesPart]
  reset := fun hrst => by
    have hstraps : s.straps = k := by rw [h.eq]; rfl
    have hframe := hr hrst
    have heq := h.eq
    rw [hframe, hrst] at heq
    rw [hstraps]
    exact heq

/-- Settles O6: the reset state is one with every block in its reset state and the ports at rest. -/
theorem invHoldsAtReset : Obligations.InvHoldsAtReset := by
  have hinv (k : BitVec 3) : Inv (State.resetWith k) :=
    BlocksReset.inv ⟨rfl⟩ (by simp [FrameOk, State.resetWith, idlePins]) (by simp [State.resetWith])
  exact ⟨hinv 2, hinv⟩

/-! ## RSTn held low -/

theorem ResetOk.blocks {s : State} (h : s.inReset = true) (hr : ResetOk s) : BlocksReset s.straps s := by
  have hframe : s.frame = .closed := by rw [hr h]; rfl
  refine ⟨?_⟩
  rw [hframe, h]
  exact hr h

/-- While RSTn is held low nothing is due and no row but DEVICE_RESET does anything (R129, R141, R144, R177). -/
theorem exec_held {c : Instr} {s : State} (h : s.inReset = true) (hr : ResetOk s) (hc : ∀ k, c ≠ .deviceReset k) :
    exec c s = .next s := by
  have hreset := hr.blocks h
  obtain ⟨hslot, hentry, hnoPeriod, -, hsupply⟩ := eventsNotDueChangeNothing
  have hslots (n : Slot) := hslot n s
  have hdeadline (i : Idx) := hentry i s (by rw [hreset.entry]; rfl)
  have hlease (i : Idx) := hnoPeriod i s (by rw [hreset.entry]; rfl)
  obtain ⟨hqual, hhold, hstall, hturnOn⟩ := hsupply s
  have hskip (f : State → State) : Host.Outcome.next (unlessReset f s) = (.next s : Host.Outcome State Fault Refusal) :=
    congrArg _ (unlessReset_held h f)
  cases c
  case deviceReset k => exact absurd rfl (hc k)
  case presenceTimerExpiry n => exact (hslots n).1 (by rw [hreset.slotRec]; rfl)
  case blankingTimerExpiry n => exact (hslots n).2.1 (by rw [hreset.slotRec]; rfl)
  case trip n => exact (hslots n).2.2.1 (by rw [hreset.slotRec]; rfl)
  case cooldownExpiry n => exact (hslots n).2.2.2.1 (by rw [hreset.slotRec]; rfl)
  case stableTimerExpiry n => exact (hslots n).2.2.2.2 (by rw [hreset.slotRec]; rfl)
  case offerWindowExpiry i => exact (hdeadline i).1
  case reduceGraceExpiry i => exact (hdeadline i).2.1
  case revokeGraceExpiry i => exact (hdeadline i).2.2.1
  case deliveryLimitExpiry i => exact (hdeadline i).2.2.2
  case leaseExpiry i => exact (hlease i).1
  case warningPoint i => exact (hlease i).2
  case qualificationTimerExpiry => exact hqual (by rw [hreset.eq]; rfl)
  case holdTimerExpiry => exact hhold (by rw [hreset.eq]; rfl)
  case stallTimerExpiry tick => exact hstall (by rw [hreset.eq]; rfl) tick
  case turnOn => exact hturnOn (.inr (.inl (by rw [hreset.eq]; rfl)))
  all_goals exact hskip _

/-- The ports drive nothing and no flag is set while RSTn is held low (R129, R144, R176, R177). -/
theorem lines_held {s : State} (h : s.inReset = true) (hr : ResetOk s) :
    sdo s = none ∧ sdaHeld s = false ∧ intLow s = false ∧ ∀ n : Slot, attn s n = false ∧ swen s n = false := by
  have hreset := hr.blocks h
  refine ⟨by rw [hr h]; rfl, by rw [hreset.eq]; rfl, by rw [hreset.eq]; simp [intLow, State.resetWith], fun n => ?_⟩
  simp [attn, swen, hreset.outbox, hreset.slotRec, emptyOutbox, emptySlot]

/-! ## DEVICE_RESET -/

theorem endReset_blocks (k : BitVec 3) (s : State) : BlocksReset k (endReset k s) := ⟨rfl⟩

theorem BlocksReset.slotReg {k : BitVec 3} {s : State} (h : BlocksReset k s) (n : Slot) : slotReg s n = 0 := by
  rw [Machine.slotReg, h.countWhere (by simp [ofSlotIn, ofSlot, blankEntry]),
    h.countWhere (by simp [ofSlotIn, ofSlot, blankEntry]), h.slotRec, h.outbox]
  rfl

theorem BlocksReset.countsReg {k : BitVec 3} {s : State} (h : BlocksReset k s) : countsReg s = 0x0020 := by
  have hfree : Machine.countWhere s (fun e => e.state == .free) = 32 := by
    simp [Machine.countWhere, entriesWhere, h.entry, blankEntry, allIdx]
  rw [Machine.countsReg, waitingCount, h.countWhere rfl, hfree]
  rfl

/-- Settles O5: the fall of RSTn, the time it is low, and the state its rise or DEVICE_RESET leaves. -/
theorem deviceResetState : Obligations.DeviceResetState := by
  refine ⟨fun s h => ⟨?fall, fun k => ?stays⟩, fun s h => ⟨?low, fun k => ?rise, fun high => ?pins⟩,
    fun s h hr => ⟨fun c => exec_held h hr, lines_held h hr⟩, fun k s => ⟨endReset k s, rfl, rfl, ?_⟩⟩
  case fall => rw [takeWire_running h]; rfl
  case stays => rw [takeWire_running h]; rfl
  case low => rw [takeWire_held h (by simp)]; rfl
  case rise => rw [takeWire, if_pos h]; rfl
  case pins =>
    refine ⟨?_, ?_, ?_, ?_, ?_⟩ <;> rw [takeWire_held h (by simp)] <;> rfl
  have hreset := endReset_blocks k s
  have hfree : LowestFree (endReset k s) 0 := ⟨by rw [hreset.entry]; rfl, fun j hj => absurd hj (Fin.not_lt_zero j)⟩
  have hslot (n : Slot) : (endReset k s).outbox n = { reply := none, notices := [] } ∧ attn (endReset k s) n = false
      ∧ swen (endReset k s) n = false ∧ (endReset k s).slotRec n = emptySlot ∧ slotReg (endReset k s) n = 0 := by
    refine ⟨hreset.outbox n, ?_, ?_, hreset.slotRec n, hreset.slotReg n⟩
    · simp [attn, hreset.outbox, emptyOutbox]
    · simp [swen, hreset.slotRec, emptySlot]
  have hitems : ∀ x ∈ allItems, defaultConfig[itemIndex x] = itemDefault x := by decide
  exact ⟨rfl, rfl, rfl, hfree, hreset.entry, rfl, rfl, rfl, rfl, rfl, rfl, rfl, hreset.heldTotal, hreset.pendingTotal, rfl,
    hslot, rfl, rfl, rfl, rfl, rfl, rfl, rfl, rfl, rfl, rfl, rfl, by simp [intLow, endReset, resetBlocks, State.resetWith],
    rfl, rfl, rfl, rfl, fun x hx => ⟨hitems x hx, hitems x hx⟩, rfl, hreset.countsReg⟩

end Sys2Proof.Machine
end

section
/-! PROOFS. The module bus (chapter 7): the interface by Table 7-2 (O18). -/

namespace Sys2Proof.Machine

/-! ## START and STOP -/

/-- Entering a state, with the stall timer of R128 in its own words. -/
theorem enterBus_timed (b : Bus) (s : State) :
    enterBus b s =
      { s with
        bus := b, bits := [], clock := none
        stallTimer := if takesPart b = true ∧ s.pins.scl = false then some (firstTick s + 25) else none } := by
  rw [enterBus_eq]
  simp only [Bool.and_eq_true, Bool.not_eq_true']
  rfl

theorem takesPart_iff (b : Bus) : takesPart b = true ↔ b ≠ .idle ∧ b ≠ .address ∧ b ≠ .passive := by
  cases b <;> simp [takesPart]

/-- The transactions at whose end nothing is taken and nothing delivered (R119, R127). -/
theorem endTransaction_quiet {s : State}
    (h : s.bus = .idle ∨ s.bus = .address ∨ s.bus = .passive ∨ (∃ n, s.bus = .overrun n) ∨ (∃ n, s.bus = .receive n [])
      ∨ (∃ n buffer, s.bus = .receive n buffer ∧ s.bits ≠ [])
      ∨ (∃ record item sent answered, s.bus = .send record item sent answered ∧ sent < 12)) (e : BusEnd) :
    endTransaction e s = enterBus (afterEnd e) s := by
  suffices hquiet : endInFlight s = s by rw [endTransaction, hquiet]
  rcases h with h | h | h | h | ⟨n, h⟩ | ⟨n, buffer, h, hbits⟩ | ⟨record, item, sent, answered, h, hsent⟩
  · exact endInFlight_none (.inl h)
  · exact endInFlight_none (.inr (.inl h))
  · exact endInFlight_none (.inr (.inr (.inl h)))
  · exact endInFlight_none (.inr (.inr (.inr h)))
  · simp only [endInFlight, h, takeWrite]
  · obtain ⟨bit, bits, hcons⟩ := List.exists_cons_of_ne_nil hbits
    cases buffer <;> simp only [endInFlight, h, takeWrite, hcons]
  · simp only [endInFlight, h, if_neg (Nat.not_le.mpr hsent)]

theorem endTransaction_message {s : State} {n : Slot} {b : Byte} {rest : List Byte} (h : s.bus = .receive n (b :: rest))
    (hbits : s.bits = []) (e : BusEnd) :
    endTransaction e s = enterBus (afterEnd e) (handleMessage n (b :: rest) s) := by
  simp only [endTransaction, endInFlight, h, takeWrite, hbits]

theorem endTransaction_delivers {s : State} {record : List Byte} {item : StagedItem} {sent : Nat} {answered : Bool}
    (h : s.bus = .send record item sent answered) (hsent : 12 ≤ sent) (e : BusEnd) :
    endTransaction e s = enterBus (afterEnd e) (deliver item s) := by
  simp only [endTransaction, endInFlight, h, if_pos hsent]

/-! ## The rows of a write -/

/-- A whole write of 1 to 16 bytes is the command that busCommand names, and is handled as a message (R119 to R121). -/
theorem exec_busCommand {s : State} {rest : List Byte} (hr : s.inReset = false) (hw : windowValid s = true)
    (hl : rest.length ≤ 15) (n : Slot) (b : Byte) (e : BusEnd) :
    exec (busCommand s.straps n (b :: rest) false e) s =
      .next (enterBus (afterEnd e) (handleMessage n (b :: rest) (startSeen s))) := by
  have hrefused : exec (.refusedMessage n (b :: rest) e) s =
      .next (enterBus (afterEnd e) (handleMessage n (b :: rest) (startSeen s))) :=
    congrArg Host.Outcome.next (writeMessage_taken n b rest _ e s hr hw hl)
  have hfits : ¬ 16 < (b :: rest).length := by simp; omega
  rw [busCommand, if_neg hfits]
  simp only [Bool.false_eq_true, if_false]
  cases hk : kindOf b with
  | none => exact hrefused
  | some k =>
    dsimp only
    split
    · obtain rfl := kindByte_of_kindOf hk
      rw [exec_kindCommand, writeMessage_taken n _ _ _ e s hr hw hl]
      have hkind : kindOf (byteAt (kindByte k :: rest) 0) = some k := hk
      rw [handleMessage_kind hkind]
    · exact hrefused

/-- With an invalid window the row of a write is its START and its end alone (R117). -/
theorem exec_write_noWindow {s : State} (hr : s.inReset = false) (hw : windowValid s = false) (k : Kind) (n : Slot)
    (body : List Byte) (e : BusEnd) :
    exec (kindCommand k n body e) s = .next (enterBus (afterEnd e) (startSeen s))
    ∧ exec (.refusedMessage n body e) s = .next (enterBus (afterEnd e) (startSeen s)) :=
  ⟨by rw [exec_kindCommand, writeMessage_noWindow n _ _ e s hr hw],
   congrArg Host.Outcome.next (writeMessage_noWindow n _ _ e s hr hw)⟩

/-! ## Changes of SDA and SCL -/

theorem takeWire_sda {s : State} (hr : s.inReset = false) (high : Bool) :
    (let t := { s with pins := { s.pins with sda := high } }
     let falls := sdaLine s = true ∧ sdaLine t = false
     let rises := sdaLine s = false ∧ sdaLine t = true
     (s.pins.scl = true → falls → takeWire (.sda high) s = startSeen t)
     ∧ (s.pins.scl = true → rises → takeWire (.sda high) s = stopSeen t)
     ∧ (s.pins.scl = false ∨ ¬ falls ∧ ¬ rises → takeWire (.sda high) s = t)) := by
  intro t falls rises
  have hmove : takeWire (.sda high) s =
      if s.pins.scl && sdaLine s && !sdaLine t then startSeen t
      else if s.pins.scl && !sdaLine s && sdaLine t then stopSeen t else t := takeWire_running hr _
  refine ⟨fun hscl ⟨h1, h2⟩ => ?start, fun hscl ⟨h1, h2⟩ => ?stop, fun h => ?level⟩
  case start => rw [hmove, if_pos (by simp [hscl, h1, h2])]
  case stop => rw [hmove, if_neg (by simp [hscl, h1]), if_pos (by simp [hscl, h1, h2])]
  case level =>
    rcases h with hscl | ⟨hfalls, hrises⟩
    · rw [hmove, if_neg (by simp [hscl]), if_neg (by simp [hscl])]
    · have hnoStart : ¬ (s.pins.scl && sdaLine s && !sdaLine t) = true := fun h => hfalls <| by
        simp only [Bool.and_eq_true, Bool.not_eq_true'] at h
        exact ⟨h.1.2, h.2⟩
      have hnoStop : ¬ (s.pins.scl && !sdaLine s && sdaLine t) = true := fun h => hrises <| by
        simp only [Bool.and_eq_true, Bool.not_eq_true'] at h
        exact ⟨h.1.2, h.2⟩
      rw [hmove, if_neg hnoStart, if_neg hnoStop]

theorem takeWire_scl_rise {s : State} (hr : s.inReset = false) (hscl : s.pins.scl = false) :
    takeWire (.scl true) s =
      { s with pins := { s.pins with scl := true }, clock := some (sdaLine s), stallTimer := none } := by
  rw [takeWire_running hr]
  simp [takeWireRunning, moveScl, hscl, sclRise]

/-- SCL low, the sampled level taken. -/
def sclLow (s : State) : State := { s with pins := { s.pins with scl := false }, clock := none }

theorem takeWire_scl_fall {s : State} (hr : s.inReset = false) (hscl : s.pins.scl = true) :
    takeWire (.scl false) s = timeStall (match s.clock with | none => sclLow s | some level => takeBit level (sclLow s)) := by
  rw [takeWire_running hr]
  simp only [takeWireRunning, moveScl, hscl, Bool.false_eq_true, if_false, sclFall]
  rfl

theorem timeStall_sclLow (s : State) (bits : List Bool) :
    timeStall { sclLow s with bits := bits } =
      { sclLow s with
        stallTimer := if takesPart s.bus then some (firstTick s + 25) else none, bits := bits } := by
  simp [timeStall, sclLow]
  rfl

theorem timeStall_enterBus (b : Bus) (s : State) : timeStall (enterBus b s) = enterBus b s := rfl

/-- A clock in a state that takes bits adds one of the eight (R118). -/
theorem takeBit_adds {level : Bool} {s : State} (h1 : s.bus ≠ .idle) (h2 : s.bus ≠ .passive) (hl : s.bits.length < 8) :
    takeBit level s = { s with bits := s.bits ++ [level] } := by
  unfold takeBit
  cases hb : s.bus <;> simp_all

/-- The ninth clock completes the byte (R118). -/
theorem takeBit_completes {level : Bool} {s : State} (h1 : s.bus ≠ .idle) (h2 : s.bus ≠ .passive) (hl : 8 ≤ s.bits.length) :
    takeBit level s = enterBus (afterByte (!level) s) s := by
  unfold takeBit
  cases hb : s.bus <;> simp_all [Nat.not_lt.mpr hl]

/-- The interface after a byte, row by row of Table 7-2. -/
theorem afterByte_eq {s : State} {level : Bool} {b : Bus}
    (h : s.bus = .address ∧ addressed s.straps (byteOf s.bits) = none ∧ b = .passive
      ∨ (∃ n, s.bus = .address ∧ addressed s.straps (byteOf s.bits) = some (.write n) ∧ b = .receive n [])
      ∨ (∃ a, s.bus = .address ∧ addressed s.straps (byteOf s.bits) = some (.read a) ∧ b = stageRecord a s)
      ∨ (∃ n buffer, s.bus = .receive n buffer ∧ buffer.length < 16 ∧ b = .receive n (buffer ++ [byteOf s.bits]))
      ∨ (∃ n buffer, s.bus = .receive n buffer ∧ 16 ≤ buffer.length ∧ b = .overrun n)
      ∨ (∃ n, s.bus = .overrun n ∧ b = .overrun n)
      ∨ (∃ record item sent, s.bus = .send record item sent true ∧ b = .send record item (min 12 (sent + 1)) (!level))
      ∨ (∃ record item sent, s.bus = .send record item sent false ∧ b = s.bus)) :
    s.bus ≠ .idle ∧ s.bus ≠ .passive ∧ afterByte (!level) (sclLow s) = b := by
  rcases h with ⟨hb, ha, rfl⟩ | ⟨n, hb, ha, rfl⟩ | ⟨a, hb, ha, rfl⟩ | ⟨n, buffer, hb, hl, rfl⟩ | ⟨n, buffer, hb, hl, rfl⟩ |
    ⟨n, hb, rfl⟩ | ⟨record, item, sent, hb, rfl⟩ | ⟨record, item, sent, hb, rfl⟩
  all_goals refine ⟨by simp [hb], by simp [hb], ?_⟩
  · simp [afterByte, sclLow, hb, afterAddress, ha]
  · simp [afterByte, sclLow, hb, afterAddress, ha]
  · simp only [afterByte, sclLow, hb, afterAddress, ha]
    cases a <;> rfl
  · simp [afterByte, sclLow, hb, storeByte, hl]
  · simp [afterByte, sclLow, hb, storeByte, Nat.not_lt.mpr hl]
  · simp [afterByte, sclLow, hb, storeByte]
  · simp [afterByte, sclLow, hb, transferByte]
  · simp [afterByte, sclLow, hb, transferByte]

/-! ## SDA as the part drives it -/

theorem sdaHeld_receive {s : State} {n : Slot} {buffer : List Byte} (h : s.bus = .receive n buffer) :
    sdaHeld s = true ↔ s.bits.length = 8 ∧ buffer.length < 16 := by
  simp [sdaHeld, acknowledges, h]

theorem sdaHeld_address {s : State} (h : s.bus = .address) :
    sdaHeld s = true ↔ s.bits.length = 8 ∧ addressed s.straps (byteOf s.bits) ≠ none := by
  simp [sdaHeld, acknowledges, h, Option.isSome_iff_ne_none]

theorem sdaHeld_unheld {s : State} (h : s.bus = .idle ∨ s.bus = .passive ∨ (∃ n, s.bus = .overrun n)) :
    sdaHeld s = false := by
  rcases h with h | h | ⟨n, h⟩ <;> simp [sdaHeld, acknowledges, h]

/-- Beyond the record every bit sent is a 1, and nothing is sent after a byte not acknowledged (R126). -/
theorem sdaHeld_send {s : State} {record : List Byte} {item : StagedItem} {sent : Nat} {answered : Bool}
    (h : s.bus = .send record item sent answered) :
    (answered = false ∨ 8 ≤ s.bits.length ∨ record.length ≤ sent → sdaHeld s = false)
    ∧ (∀ byte : Byte, answered = true → s.bits.length < 8 → record[sent]? = some byte →
        sdaHeld s = !byte.getMsbD s.bits.length) := by
  simp only [sdaHeld, h]
  refine ⟨?_, fun byte ha hl hbyte => ?_⟩
  · rintro (rfl | hl | hend)
    · rfl
    · simp [Nat.not_lt.mpr hl]
    · have hones : sentByte record sent = BitVec.allOnes 8 := by simp [sentByte, List.getD_eq_getElem?_getD, hend]
      rw [hones]
      by_cases hl : s.bits.length < 8
      · rw [BitVec.getMsbD_allOnes, decide_eq_true hl]
        simp
      · simp [hl]
  · simp [sentByte, List.getD_eq_getElem?_getD, hbyte, ha, hl]

/-- Settles O18: what ends a transaction, the rows of a write, the changes of SDA and SCL, what is driven, the stall timer. -/
theorem interfaceOnTheBus : Obligations.InterfaceOnTheBus := by
  refine ⟨enterBus_timed, rfl, rfl, takesPart_iff, fun e s h => endTransaction_quiet h e,
    fun n b rest e s h hb => endTransaction_message h hb e, fun record item sent answered e s h hsent =>
    endTransaction_delivers h hsent e, fun s => ⟨rfl, rfl⟩,
    fun n why e s hr => congrArg Host.Outcome.next (unlessReset_running hr _),
    fun k n body e s hr hw => exec_write_noWindow hr hw k n body e, fun n b rest e s hr hw hl => exec_busCommand hr hw hl n b e,
    fun high s hr => takeWire_sda hr high, fun high s hr h => ?same, fun s hr hscl => takeWire_scl_rise hr hscl,
    fun s hr hscl => ⟨fun h => ?quiet, fun level hclock h1 h2 hl => ?bit, fun level b hclock hl h => ?byte⟩,
    fun s => rfl, fun s => sdaHeld_unheld, fun s => sdaHeld_address, fun n buffer s => sdaHeld_receive,
    fun record item sent answered s => sdaHeld_send, fun tick s hpart htimer hdue => ?stall, fun tick s h => ?idle⟩
  case same => rw [takeWire_running hr]; exact if_pos h
  case quiet =>
    have hbits : (match s.clock with | none => sclLow s | some level => takeBit level (sclLow s))
        = { sclLow s with bits := s.bits } := by
      rcases h with h | h | h
      · rw [h]; rfl
      all_goals cases s.clock <;> simp [takeBit, sclLow, h]
    rw [takeWire_scl_fall hr hscl, hbits, timeStall_sclLow]
    rfl
  case bit =>
    rw [takeWire_scl_fall hr hscl, hclock]
    dsimp only
    rw [takeBit_adds (s := sclLow s) h1 h2 hl]
    exact timeStall_sclLow s _
  case byte =>
    obtain ⟨h1, h2, hafter⟩ := afterByte_eq (level := level) h
    rw [takeWire_scl_fall hr hscl, hclock]
    dsimp only
    rw [takeBit_completes (s := sclLow s) h1 h2 hl, timeStall_enterBus, hafter]
    rfl
  case stall =>
    have hstall : stallDue s tick = true := by
      rw [htimer] at hdue
      simp [stallDue, hpart, htimer, hdue]
    change execStallTimerExpiry tick s = _
    rw [execStallTimerExpiry, if_pos hstall]
    rfl
  case idle =>
    have hstall : stallDue s tick = false := by
      rcases h with h | h <;> simp [stallDue, h]
    change execStallTimerExpiry tick s = _
    simp [execStallTimerExpiry, hstall]

end Sys2Proof.Machine
end

section
/-! PROOFS. Reads (chapters 6 and 7): the addresses and the record staged (O19), and what the end of a read removes (O20). -/

namespace Sys2Proof.Machine

/-! ## The addresses (Table 7-1) -/

theorem validStraps_iff (k : BitVec 3) : validStraps k = true ↔ k ≠ 0 ∧ k ≠ 7 := by revert k; decide

theorem getLsbD_zero_iff (b : Byte) : b.getLsbD 0 = true ↔ b.toNat % 2 = 1 := by
  simp [BitVec.getLsbD]

/-- An address byte with a valid window: its address counted from the base, and its read/write bit (R116). -/
theorem addressed_valid {k : BitVec 3} (hk : validStraps k = true) (b : Byte) :
    addressed k b =
      if b.toNat / 2 < 16 * k.toNat then none
      else if h : b.toNat / 2 - 16 * k.toNat < 12 then
        some (if b.toNat % 2 = 1 then .read (.slot ⟨_, h⟩) else .write ⟨_, h⟩)
      else if b.toNat / 2 - 16 * k.toNat = 12 ∧ b.toNat % 2 = 1 then some (.read .summary)
      else none := by
  simp only [addressed, hk, Bool.not_true, Bool.false_or, decide_eq_true_eq, getLsbD_zero_iff]

theorem addressed_table (k : BitVec 3) (b : Byte) :
    (let base := 16 * k.toNat
     (k = 0 ∨ k = 7 → addressed k b = none)
     ∧ (k ≠ 0 → k ≠ 7 →
         (∀ n : Slot, b.toNat = 2 * (base + n.val) → addressed k b = some (.write n))
         ∧ (∀ n : Slot, b.toNat = 2 * (base + n.val) + 1 → addressed k b = some (.read (.slot n)))
         ∧ (b.toNat = 2 * (base + 12) + 1 → addressed k b = some (.read .summary))
         ∧ (b.toNat < 2 * base ∨ b.toNat = 2 * (base + 12) ∨ 2 * (base + 13) ≤ b.toNat → addressed k b = none))) := by
  intro base
  refine ⟨fun h => ?invalid, fun h0 h7 => ?valid⟩
  case invalid =>
    have hk : validStraps k = false := by
      rw [← Bool.not_eq_true, validStraps_iff]
      tauto
    simp [addressed, hk]
  case valid =>
    rw [addressed_valid ((validStraps_iff k).mpr ⟨h0, h7⟩)]
    refine ⟨fun n hb => ?write, fun n hb => ?read, fun hb => ?summary, fun hb => ?none⟩
    case write =>
      have hplace : b.toNat / 2 - 16 * k.toNat = n.val := by omega
      rw [if_neg (by omega), dif_pos (by omega), if_neg (by omega)]
      simp only [hplace]
    case read =>
      have hplace : b.toNat / 2 - 16 * k.toNat = n.val := by omega
      rw [if_neg (by omega), dif_pos (by omega), if_pos (by omega)]
      simp only [hplace]
    case summary => rw [if_neg (by omega), dif_neg (by omega), if_pos (by omega)]
    case none =>
      split
      · rfl
      · rw [dif_neg (by omega), if_neg (by omega)]

/-! ## Staging (R108, R125) -/

theorem exec_readStaging_running {u s : State} (hs : startSeen u = s) (hr : s.inReset = false) (a : ReadAddr) :
    exec (.readStaging a) u = .next (enterBus (if windowValid s then stageRecord a s else .passive) s) := by
  subst hs
  rw [startSeen_inReset] at hr
  exact congrArg Host.Outcome.next (unlessReset_running hr _)

theorem stageRecord_reply {s : State} {n : Slot} {r : Reply} (h : (s.outbox n).reply = some r) :
    stageRecord (.slot n) s = .send (withCheck s (.slot n) (replyBody r)) (.reply n r.id) 0 true := by
  simp only [stageRecord, slotBody, stagedItem, h]

theorem stageRecord_notice {s : State} {n : Slot} {x : Notice} {rest : List Notice} (h : (s.outbox n).reply = none)
    (hx : (s.outbox n).notices = x :: rest) :
    stageRecord (.slot n) s = .send (withCheck s (.slot n) (noticeBody s x)) (.notice n x.id) 0 true := by
  simp only [stageRecord, slotBody, stagedItem, h, hx]

theorem stageRecord_idle {s : State} {n : Slot} (h : (s.outbox n).reply = none) (hx : (s.outbox n).notices = []) :
    stageRecord (.slot n) s = .send (withCheck s (.slot n) idleBody) .nothing 0 true := by
  simp only [stageRecord, slotBody, stagedItem, h, hx]

/-- The fields of a notice that are read at staging (Table 6-3). -/
theorem noticeFields_eq {s : State} {x : Notice} {cause time : Nat}
    (h : (x.kind = .offer ∨ x.kind = .reduce) ∧ cause = 0 ∧ time = tensLeft s (s.entry x.index).deadline
      ∨ x.kind = .revoke ∧ cause = causeCodeOf (s.entry x.index).cause ∧ time = tensLeft s (s.entry x.index).deadline
      ∨ x.kind = .closed ∧ cause = causeCodeOf (s.entry x.index).cause ∧ time = 0
      ∨ x.kind = .leaseWarn ∧ cause = 0 ∧ time = leaseLeft s (s.entry x.index)
      ∨ (x.kind = .recall ∨ x.kind = .restore) ∧ cause = 0 ∧ time = 0) :
    noticeCause s x = cause ∧ noticeTime s x = time := by
  rcases h with ⟨h | h, rfl, rfl⟩ | ⟨h, rfl, rfl⟩ | ⟨h, rfl, rfl⟩ | ⟨h, rfl, rfl⟩ | ⟨h | h, rfl, rfl⟩ <;>
    simp only [noticeCause, noticeTime, h, and_self]

theorem bandByte_eq {s : State} {band : Byte}
    (h : s.supply = .unqualified ∧ band = 0xFF
      ∨ s.supply ≠ .unqualified ∧ ∃ b : Band, s.qualified = some b ∧ band = loByte b.val) : bandByte s = band := by
  rcases h with ⟨hs, rfl⟩ | ⟨hs, b, hq, rfl⟩
  · exact if_pos hs
  · rw [bandByte, if_neg hs, hq]

/-- Settles O19: the addresses of the window, then the record by what the outbox holds. -/
theorem readStagesTheRecord : Obligations.ReadStagesTheRecord := by
  refine ⟨addressed_table, fun u s hs hr => ⟨fun hw a => ?passive, fun hw => ?_⟩⟩
  case passive => simp [exec_readStaging_running hs hr, hw]
  intro staged
  have hstaged {a : ReadAddr} {record : List Byte} {item : StagedItem}
      (h : stageRecord a s = .send (withCheck s a record) item 0 true) : staged a record item :=
    ⟨h, by rw [exec_readStaging_running hs hr, if_pos hw]⟩
  refine ⟨fun n r h => hstaged (stageRecord_reply h), fun n x rest cause time h hx hfields => ?notice,
    fun n h hx => hstaged (stageRecord_idle h hx), fun band h => ?summary⟩
  case notice =>
    obtain ⟨hcause, htime⟩ := noticeFields_eq hfields
    have hrecord := stageRecord_notice h hx
    rw [noticeBody, hcause, htime] at hrecord
    exact hstaged hrecord
  case summary =>
    have hrecord : stageRecord .summary s = .send (withCheck s .summary (summaryBody s)) .nothing 0 true := rfl
    rw [summaryBody, bandByte_eq h] at hrecord
    exact hstaged hrecord

/-! ## The end of a read (R109, R126, R127) -/

theorem exec_readEnd_running {s : State} (hr : s.inReset = false) (acks : List Bool) (e : BusEnd) :
    exec (.readEnd acks e) s = .next (endTransaction e { s with bus := transferred acks s.bus }) :=
  congrArg Host.Outcome.next (unlessReset_running hr _)

/-- The bytes of a read are transferred by a read alone. -/
theorem transferred_noRead {b : Bus} (h : ∀ record item sent answered, b ≠ .send record item sent answered)
    (acks : List Bool) : transferred acks b = b := by
  induction acks with
  | nil => rfl
  | cons ack acks ih =>
    have hone : transferByte b ack = b := by
      cases b with
      | send record item sent answered => exact absurd rfl (h record item sent answered)
      | _ => rfl
    rw [transferred, List.foldl_cons, hone]
    exact ih

/-- How many bytes are transferred: up to the first not acknowledged, that one included, and 12 at most (R126). -/
theorem transferred_eq {record : List Byte} {item : StagedItem} {before sent : Nat} {answered : Bool} {acks : List Bool}
    (hb : before ≤ 12)
    (h : answered = false ∧ sent = before
      ∨ answered = true ∧ (∀ a ∈ acks, a = true) ∧ sent = min 12 (before + acks.length)
      ∨ (∃ first rest : List Bool, answered = true ∧ acks = first ++ false :: rest ∧ (∀ a ∈ first, a = true)
          ∧ sent = min 12 (before + first.length + 1))) :
    transferred acks (.send record item before answered) = .send record item sent (answered && acks.all id) := by
  rcases h with ⟨rfl, rfl⟩ | ⟨rfl, hall, rfl⟩ | ⟨first, rest, rfl, rfl, hfirst, rfl⟩
  · rw [transferred_unanswered, Bool.false_and]
  · have hrun : acks.takeWhile id = acks := List.takeWhile_eq_self_iff.mpr fun a ha => hall a ha
    rw [transferred_send _ _ _ _ hb, hrun, Nat.min_eq_left (Nat.le_succ _), Bool.true_and]
  · have hrun : (first ++ false :: rest).takeWhile id = first := by
      rw [List.takeWhile_append_of_pos (p := id) fun a ha => hfirst a ha]
      simp
    have hlen : min (first ++ false :: rest).length (first.length + 1) = first.length + 1 := by simp
    rw [transferred_send _ _ _ _ hb, hrun, hlen, Bool.true_and, Nat.add_assoc]

/-! What is delivered (R109, R111) -/

theorem deliverReply_present {s : State} {n : Slot} {r : Reply} (h : (s.outbox n).reply = some r) :
    deliverReply n r.id s = s.setOutbox n { reply := none, notices := (s.outbox n).notices } := by
  simp only [deliverReply, h, if_pos]

theorem deliverReply_absent {s : State} {n : Slot} {id : Nat} (h : ∀ r, (s.outbox n).reply = some r → r.id ≠ id) :
    deliverReply n id s = s := by
  unfold deliverReply
  cases hr : (s.outbox n).reply with
  | none => rfl
  | some r => exact if_neg (h r hr)

/-- An identity names one notice of a queue in order (R109). -/
theorem OutboxOk.find_id {s : State} {n : Slot} (h : OutboxOk s n) {x : Notice} (hx : x ∈ (s.outbox n).notices) :
    (s.outbox n).notices.find? (fun y => y.id == x.id) = some x := by
  cases hfind : (s.outbox n).notices.find? (fun y => y.id == x.id) with
  | none => exact absurd (List.find?_eq_none.mp hfind x hx) (by simp)
  | some y =>
    have hid : y.id = x.id := by simpa using List.find?_some hfind
    have hnodup : ((s.outbox n).notices.map Notice.id).Nodup := List.pairwise_map.mpr (h.1.imp And.right)
    rw [List.inj_on_of_nodup_map hnodup (List.mem_of_find?_eq_some hfind) hx hid]

theorem deliverNotice_present {s : State} {n : Slot} {x : Notice}
    (h : (s.outbox n).notices.find? (fun y => y.id == x.id) = some x) :
    deliverNotice n x.id s =
      (let removed := s.setOutbox n
         { s.outbox n with notices := (s.outbox n).notices.filter (fun y => y.id != x.id) }
       if x.kind = .closed then freeEntry x.index removed else removed) := by
  simp only [deliverNotice, h]
  rfl

theorem deliverNotice_absent {s : State} {n : Slot} {id : Nat} (h : ∀ x ∈ (s.outbox n).notices, x.id ≠ id) :
    deliverNotice n id s = s := by
  have hfind : (s.outbox n).notices.find? (fun y => y.id == id) = none :=
    List.find?_eq_none.mpr fun x hx => by simpa using h x hx
  simp only [deliverNotice, hfind]

/-- Settles O20: the bytes transferred decide, and then the item staged against what the outbox holds. -/
theorem readEndDelivers : Obligations.ReadEndDelivers := by
  refine ⟨fun acks e s hr hb => ?noRead, fun acks e s hr hb => ?idle,
    fun record item before sent answered acks e s hr hb hbefore hsent => ?read⟩
  case noRead => rw [exec_readEnd_running hr, transferred_noRead hb]
  case idle =>
    have hread : ∀ record item sent answered, s.bus ≠ .send record item sent answered := by
      rcases hb with h | h | h | ⟨n, h⟩ <;> simp [h]
    rw [exec_readEnd_running hr, transferred_noRead hread, endTransaction, endInFlight_none hb]
  case read =>
    intro ended clocked
    have hex : exec (.readEnd acks e) s = .next (endTransaction e clocked) := by
      rw [exec_readEnd_running hr, hb, transferred_eq hbefore hsent]
    have hquiet (h : sent < 12) : ended clocked :=
      hex.trans (congrArg _ (endTransaction_quiet
        (.inr (.inr (.inr (.inr (.inr (.inr ⟨record, item, sent, _, rfl, h⟩)))))) e))
    have hdelivers (h : 12 ≤ sent) : ended (deliver item clocked) :=
      hex.trans (congrArg _ (endTransaction_delivers rfl h e))
    refine ⟨hquiet, fun hi => ?nothing, fun n id hi h => ⟨fun r hrep hid => ?reply, fun habsent => ?noReply⟩,
      fun n id hi h => ⟨fun x hx hid hok => ⟨fun hk => ?notice, fun hk => ?closed⟩, fun habsent => ?noNotice⟩⟩
    case nothing =>
      rcases Nat.lt_or_ge sent 12 with h | h
      · exact hquiet h
      · simpa [hi, deliver] using hdelivers h
    case reply =>
      have hd := hdelivers h
      rw [hi, ← hid] at hd
      exact deliverReply_present (s := clocked) (n := n) hrep ▸ hd
    case noReply =>
      have hd := hdelivers h
      rw [hi] at hd
      exact deliverReply_absent (s := clocked) (n := n) habsent ▸ hd
    case notice =>
      have hd := hdelivers h
      rw [hi, ← hid] at hd
      have hnotice := deliverNotice_present (s := clocked) (hok.find_id hx)
      rw [deliver, hnotice] at hd
      dsimp only at hd
      rw [if_neg hk, hid] at hd
      exact hd
    case closed =>
      have hd := hdelivers h
      rw [hi, ← hid] at hd
      have hnotice := deliverNotice_present (s := clocked) (hok.find_id hx)
      rw [deliver, hnotice] at hd
      dsimp only at hd
      rw [if_pos hk, hid] at hd
      exact hd
    case noNotice =>
      have hd := hdelivers h
      rw [hi] at hd
      exact deliverNotice_absent (s := clocked) (n := n) habsent ▸ hd

end Sys2Proof.Machine
end

section
/-! PROOFS. The supply (chapter 8): the bands that qualify for operation (O22), the entry to HOLD (O23) and the restart (O25). -/

namespace Sys2Proof.Machine

/-! ## A band qualifies (R133, R134) -/

/-- The state in which band b is the qualified one and BAND_CHANGE is raised (R133). -/
def bandTaken (b : Band) (s : State) : State :=
  { s with qualified := some b, candidate := none, qualTimer := none, events := s.events ||| 0x002 }

theorem exec_qualificationTimerExpiry_due {b : Band} {s : State} (hc : s.candidate = some b)
    (hdue : due s s.qualTimer = true) :
    exec .qualificationTimerExpiry s = .next (bandQualified b (bandTaken b s)) := by
  change execQualificationTimerExpiry s = _
  simp only [execQualificationTimerExpiry, hc, if_pos hdue]
  rfl

theorem enterOperating_eq (b : Band) (s : State) :
    enterOperating b s =
      (let t := { s with supply := .operating, holdTimer := none }
       let u := restartAll (recompute (operatingCapacity s b) t)
       judgeDeficit { u with events := u.events ||| 0x001 }) := rfl

/-- A band with a capacity makes the supply OPERATING, from whatever other state (R134). -/
theorem bandQualified_enters {b : Band} {s : State} (hb : b ≠ 0) (hs : s.supply ≠ .operating) :
    bandQualified b s = enterOperating b s := by
  unfold bandQualified
  cases h : s.supply <;> simp_all

theorem bandQualified_operating {b : Band} {s : State} (hb : b ≠ 0) (hs : s.supply = .operating) :
    bandQualified b s = judgeDeficit (recompute (operatingCapacity s b) s) := by
  simp only [bandQualified, hs, if_neg hb]

/-- Settles O22: recompute by H − P against the new C, and then the two ways a band takes effect. -/
theorem bandQualifiesForOperation : Obligations.BandQualifiesForOperation := by
  refine ⟨fun cap s => ⟨fun h => ?plan, fun h => ?noPlan⟩, fun b cap s hc hdue hcap => ?band⟩
  case plan => rw [recompute_eq, if_pos h]
  case noPlan => rw [recompute_eq, if_neg (Nat.not_lt.mpr h)]
  case band =>
    have hb : b ≠ 0 := by rcases hcap with ⟨rfl, -⟩ | ⟨rfl, -⟩ | ⟨rfl, -⟩ <;> decide
    have hcapacity : operatingCapacity (bandTaken b s) b = cap := operatingCapacity_eq (s := bandTaken b s) hcap
    rw [exec_qualificationTimerExpiry_due hc hdue]
    refine ⟨fun hs => ?_, fun hs => ?_⟩
    · rw [bandQualified_operating (s := bandTaken b s) hb hs, hcapacity]
      rfl
    · dsimp only
      rw [bandQualified_enters (s := bandTaken b s) hb hs, enterOperating_eq, hcapacity]
      rfl

/-! ## HOLD (R138, R157) -/

theorem suspendAll_slotRec (s : State) (n : Slot) : (suspendAll s).slotRec n = suspendedRec (s.slotRec n) := by
  have hfold := foldl_setSlot (fun _ => suspendedRec) allSlots (List.nodup_finRange 12) s n
  rw [if_pos (mem_allSlots n)] at hfold
  unfold suspendAll
  generalize allSlots.foldl _ s = t at hfold ⊢
  exact hfold

/-- Settles O23: the timer starts and every slot takes its record of R157. -/
theorem bandZeroEntersHold : Obligations.BandZeroEntersHold := by
  intro s hc hdue hs
  have hhold : bandQualified 0 (bandTaken 0 s) = enterHold (bandTaken 0 s) := by
    have hsupply : (bandTaken 0 s).supply = .operating := hs
    simp only [bandQualified, hsupply, if_pos]
  refine ⟨enterHold (bandTaken 0 s), by rw [exec_qualificationTimerExpiry_due hc hdue, hhold], ?_, fun n => ?_⟩
  · rw [enterHold, suspendAll_eq]
    rfl
  · have hrec : (enterHold (bandTaken 0 s)).slotRec n = suspendedRec (s.slotRec n) := by
      rw [enterHold, raise_slotRec, suspendAll_slotRec]
      rfl
    rw [hrec]
    refine ⟨fun h => ?_, fun h => ?_, fun h1 h2 => ?_⟩
    · simp only [suspendedRec, h, switchedOff]
    · simp only [suspendedRec, h]
    · cases h : (s.slotRec n).state <;> simp_all [suspendedRec]

/-! ## The restart (R158) -/

theorem le_foldl_max (l : List Sys2Proof.Class) (a : Sys2Proof.Class) :
    a ≤ l.foldl max a ∧ ∀ c ∈ l, c ≤ l.foldl max a := by
  induction l generalizing a with
  | nil => simp
  | cons c l ih =>
    obtain ⟨hstart, hall⟩ := ih (max a c)
    refine ⟨(le_max_left a c).trans hstart, fun x hx => ?_⟩
    rcases List.mem_cons.mp hx with rfl | hx
    · exact (le_max_right a x).trans hstart
    · exact hall x hx

theorem foldl_max_mem (l : List Sys2Proof.Class) (a : Sys2Proof.Class) : l.foldl max a = a ∨ l.foldl max a ∈ l := by
  induction l generalizing a with
  | nil => exact .inl rfl
  | cons c l ih =>
    rw [List.foldl_cons]
    rcases ih (max a c) with h | h
    · rw [h]
      exact (max_choice a c).imp_right fun hm => by simp [hm]
    · exact .inr (List.mem_cons_of_mem c h)

theorem mem_needClasses (s : State) (n : Slot) (c : Sys2Proof.Class) :
    c ∈ (entriesWhere s (ofSlotIn n needsPower)).map (fun i => (s.entry i).cls) ↔
      ∃ i : Idx, (s.entry i).slot = n ∧ needsPower (s.entry i).state = true ∧ (s.entry i).cls = c := by
  simp only [List.mem_map, mem_entriesWhere, ofSlotIn_iff]
  refine exists_congr fun i => ⟨fun ⟨⟨_, hn, hp⟩, hc⟩ => ⟨hn, hp, hc⟩, fun ⟨hn, hp, hc⟩ => ⟨⟨needsPower_ne_free hp, hn, hp⟩, hc⟩⟩

theorem cls_le_needClass {s : State} {n : Slot} {i : Idx} (hn : (s.entry i).slot = n)
    (hp : needsPower (s.entry i).state = true) : (s.entry i).cls ≤ needClass s n :=
  (le_foldl_max _ 0).2 _ ((mem_needClasses s n _).mpr ⟨i, hn, hp, rfl⟩)

/-- The highest class of the need is the class of one of its entries. -/
theorem exists_cls_needClass {s : State} {n : Slot} (h : hasNeed s n = true) :
    ∃ i : Idx, (s.entry i).slot = n ∧ needsPower (s.entry i).state = true ∧ (s.entry i).cls = needClass s n := by
  rcases foldl_max_mem ((entriesWhere s (ofSlotIn n needsPower)).map fun i => (s.entry i).cls) 0 with hzero | hmem
  · obtain ⟨i, hn, hp⟩ := (hasNeed_iff s n).mp h
    have hclass : needClass s n = 0 := hzero
    exact ⟨i, hn, hp, le_antisymm (cls_le_needClass hn hp) (hclass ▸ Fin.zero_le _)⟩
  · exact (mem_needClasses s n _).mp hmem

theorem restartAll_slotRec (s : State) (n : Slot) : (restartAll s).slotRec n = restartedRec s n (s.slotRec n) := by
  have hfold := foldl_setSlot (restartedRec s) allSlots (List.nodup_finRange 12) s n
  rw [if_pos (mem_allSlots n)] at hfold
  unfold restartAll
  generalize allSlots.foldl _ s = t at hfold ⊢
  exact hfold

theorem mem_classesDown (c : Sys2Proof.Class) : c ∈ classesDown := by revert c; decide

theorem mem_restartOrder (s : State) (n : Slot) :
    n ∈ restartOrder s ↔ (s.slotRec n).state = .suspended ∧ hasNeed s n = true := by
  simp only [restartOrder, List.mem_flatMap, List.mem_filter, mem_allSlots, true_and, Bool.and_eq_true, beq_iff_eq]
  exact ⟨fun ⟨_, _, h, _⟩ => h, fun h => ⟨_, mem_classesDown _, h, rfl⟩⟩

/-- A list gathered class by class in an order of the classes, each class in an order of its own, is in the order of class and
then of the class's own. -/
theorem pairwise_byClass {α : Type} {classes : List Sys2Proof.Class} {before : Sys2Proof.Class → Sys2Proof.Class → Prop}
    (hclasses : classes.Pairwise before) (cls : α → Sys2Proof.Class) (p : α → Bool) {l : List α} {r : α → α → Prop}
    (hl : l.Pairwise r) :
    (classes.flatMap fun c => l.filter fun a => p a && cls a == c).Pairwise fun a b =>
      before (cls a) (cls b) ∨ cls a = cls b ∧ r a b := by
  have hcls {c : Sys2Proof.Class} {a : α} (h : a ∈ l.filter fun a => p a && cls a == c) : cls a = c := by
    simpa using (Bool.and_eq_true_iff.mp (List.mem_filter.mp h).2).2
  refine List.pairwise_flatMap.mpr ⟨fun c _ => ?same, hclasses.imp fun hlt a ha b hb => ?lower⟩
  case same =>
    refine (hl.filter _).imp_of_mem fun ha hb hr => .inr ⟨?_, hr⟩
    rw [hcls ha, hcls hb]
  case lower => exact .inl (hcls ha ▸ hcls hb ▸ hlt)

theorem pairwise_classesDown : classesDown.Pairwise fun c d => d < c := by decide

theorem pairwise_restartOrder (s : State) :
    (restartOrder s).Pairwise fun m n => needClass s n < needClass s m ∨ needClass s n = needClass s m ∧ m < n := by
  have h := pairwise_byClass pairwise_classesDown (needClass s)
    (fun n => (s.slotRec n).state == .suspended && hasNeed s n) (List.pairwise_lt_finRange 12)
  exact h.imp fun h => h.imp_right fun ⟨heq, hlt⟩ => ⟨heq.symm, hlt⟩

/-- Settles O25: every slot takes its record of R158, and the queue is gathered from class 3 down. -/
theorem restartQueuesByClass : Obligations.RestartQueuesByClass := by
  intro s
  refine ⟨restartAll_only s, by rw [restartAll_eq], by rw [restartAll_eq], by rw [restartAll_eq], by rw [restartAll_eq],
    fun n => ⟨fun hst hneed => ?queued, fun hst hneed => ?idle, fun hst => ?stays, ?mem⟩, ?order⟩
  case queued =>
    refine ⟨needClass s n, ?_, fun i => cls_le_needClass, exists_cls_needClass hneed⟩
    rw [restartAll_slotRec]
    simp only [restartedRec, hst, if_pos hneed]
  case idle =>
    rw [restartAll_slotRec]
    simp [restartedRec, hst, hneed]
  case stays =>
    rw [restartAll_slotRec]
    cases h : (s.slotRec n).state <;> simp_all [restartedRec]
  case mem =>
    rw [restartAll_eq]
    exact mem_restartOrder s n
  case order =>
    rw [restartAll_eq]
    exact pairwise_restartOrder s

end Sys2Proof.Machine
end

section
/-! PROOFS. The retirement of a slot's entries (O46), and the order and the steps of restoration and admission (O47). -/

namespace Sys2Proof.Machine

/-! ## The retirement of a slot (R80, R155, R160) -/

theorem slot_of_mem_standing {s : State} {n : Slot} : ∀ i ∈ entriesWhere s (ofSlotIn n isStanding), (s.entry i).slot = n :=
  fun i hi => ((ofSlotIn_iff n isStanding (s.entry i)).mp ((mem_entriesWhere ..).mp hi)).2.1

theorem retireSlot_entry (c : Cause) (n : Slot) (s : State) (i : Idx) :
    (retireSlot c n s).entry i =
      if ofSlotIn n isStanding (s.entry i) then
        { s.entry i with state := .retired, cause := some c, held := 0, target := none, period := none,
                         deadline := some (firstTick s + 1000 * activeItem s .deliv) }
      else s.entry i := by
  simp only [retireSlot, retireAll_entry c _ (nodup_entriesWhere _ _), mem_entriesWhere]
  rfl

/-- Settles O46: the retirement of the list of the slot's standing entries. -/
theorem retirementOfASlot : Obligations.RetirementOfASlot := by
  intro c n s t taken
  obtain ⟨hother, hreply, closed, hnotices, hindex, hclosed⟩ :=
    retireAll_outbox c n _ (nodup_entriesWhere s (ofSlotIn n isStanding)) s slot_of_mem_standing
  simp only [contains_entriesWhere] at hnotices
  refine ⟨retireSlot_only c n s, fun i hi => ?taken, fun i hi => ?left, ?wait, ?admission,
    fun m hm => ⟨hother m hm, retireAll_slotRec_ne c n m hm _ s slot_of_mem_standing⟩, hreply, closed, hnotices, hindex, hclosed⟩
  case taken => exact (retireSlot_entry c n s i).trans (if_pos hi)
  case left => exact (retireSlot_entry c n s i).trans (if_neg (by simpa using hi))
  case wait => exact (retireAll_waitQueue c _ s).trans (by simp only [contains_entriesWhere]; rfl)
  case admission => exact (retireAll_admission c _ s).trans (by simp only [contains_entriesWhere]; rfl)

/-! ## Restoration and admission (R36, R37, R56, R57) -/

theorem isShort_iff (e : Entry) :
    isShort e = true ↔ e.state = .reduced ∨ e.state = .enabling ∧ e.held < e.requested := by
  unfold isShort
  cases h : e.state <;> simp

theorem mem_restoreOrder (s : State) (i : Idx) :
    i ∈ restoreOrder s ↔ i ∈ s.admission ∧ isShort (s.entry i) = true := by
  simp only [restoreOrder, List.mem_flatMap, List.mem_filter, Bool.and_eq_true, beq_iff_eq]
  exact ⟨fun ⟨_, _, hm, _, hs⟩ => ⟨hm, hs⟩, fun ⟨hm, hs⟩ => ⟨_, mem_classesDown _, hm, rfl, hs⟩⟩

/-- A list without repetition is in the order of the positions in it (R19). -/
theorem pairwise_positionIn {l : List Idx} (hn : l.Nodup) : l.Pairwise fun i j => positionIn l i < positionIn l j :=
  List.pairwise_iff_getElem.mpr fun _ _ ha hb hlt => (positionIn_lt_iff hn ha hb).mpr hlt

theorem pairwise_restoreOrder {s : State} (hn : s.admission.Nodup) :
    (restoreOrder s).Pairwise fun i j => (s.entry j).cls < (s.entry i).cls
      ∨ (s.entry i).cls = (s.entry j).cls ∧ positionIn s.admission i < positionIn s.admission j := by
  have h := pairwise_byClass pairwise_classesDown (fun i => (s.entry i).cls) (fun i => isShort (s.entry i))
    (pairwise_positionIn hn)
  simpa only [restoreOrder, Bool.and_comm] using h

theorem restoreEntry_spent {s : State} (h : headroom s = 0) (i : Idx) : restoreEntry s i = s := if_pos h

theorem restoreEntry_reduced {s : State} {i : Idx} (h : headroom s ≠ 0) (hst : (s.entry i).state = .reduced) :
    restoreEntry s i =
      (let level := min (s.entry i).requested ((s.entry i).held + headroom s)
       queueNotice .restore i level (s.setEntry i
         { s.entry i with held := level, state := if level = (s.entry i).requested then .active else .reduced })) := by
  simp only [restoreEntry, if_neg h, hst]

theorem restoreEntry_enabling {s : State} {i : Idx} (h : headroom s ≠ 0) (hst : (s.entry i).state = .enabling) :
    restoreEntry s i = s.setEntry i
      { s.entry i with held := min (s.entry i).requested ((s.entry i).held + headroom s) } := by
  simp only [restoreEntry, if_neg h, hst]

theorem admitFrom_stops {s : State} {i : Idx} (h : headroom s < (s.entry i).floor) (rest : List Idx) :
    admitFrom (i :: rest) s = s := if_pos h

theorem admitFrom_offers {s : State} {i : Idx} (h : (s.entry i).floor ≤ headroom s) (rest : List Idx) :
    admitFrom (i :: rest) s = admitFrom rest (queueNotice .offer i (min (s.entry i).requested (headroom s))
      (offerEntry i (min (s.entry i).requested (headroom s)) s)) := if_neg (Nat.not_lt.mpr h)

/-- Settles O47: the candidates in their order, then one step of each procedure. -/
theorem restorationAndAdmission : Obligations.RestorationAndAdmission := by
  intro s
  refine ⟨⟨rfl, fun i => ?_, pairwise_restoreOrder⟩, fun i => ⟨fun h => restoreEntry_spent h i, fun h hst => ?_, fun h hst => ?_⟩,
    fun i rest => ⟨fun h => admitFrom_stops h rest, fun h => admitFrom_offers h rest⟩⟩
  · rw [mem_restoreOrder, isShort_iff]
  · exact restoreEntry_reduced (Nat.ne_of_gt h) hst
  · exact restoreEntry_enabling (Nat.ne_of_gt h) hst

end Sys2Proof.Machine
end

section
/-! PROOFS. The register window and the SPI frame (chapter 10; O42). -/

namespace Sys2Proof.Machine

/-! ## The window by ranges of the number -/

/-- From 0x10 on a register number stands in one of the four blocks of the window, or is not listed (Table 10-1). -/
theorem readRegister_upper {r : BitVec 7} (hr : 0x10 ≤ r.toNat) (s : State) :
    readRegister s r =
      if h : 0x10 ≤ r.toNat ∧ r.toNat ≤ 0x17 then s.snap[r.toNat - 0x10]'(by omega)
      else if h : 0x20 ≤ r.toNat ∧ r.toNat ≤ 0x2B then slotReg s ⟨r.toNat - 0x20, by omega⟩
      else if h : 0x40 ≤ r.toNat ∧ r.toNat ≤ 0x54 then s.staged[r.toNat - 0x40]'(by omega)
      else if h : 0x60 ≤ r.toNat ∧ r.toNat ≤ 0x74 then s.active[r.toNat - 0x60]'(by omega)
      else 0 := by
  have hne (c : BitVec 7) (hc : c.toNat < 0x10) : r ≠ c := by
    rintro rfl
    omega
  rw [readRegister, if_neg (hne 0x00 (by decide)), if_neg (hne 0x01 (by decide)), if_neg (hne 0x02 (by decide)),
    if_neg (hne 0x03 (by decide)), if_neg (hne 0x04 (by decide)), if_neg (hne 0x05 (by decide)),
    if_neg (hne 0x06 (by decide)), if_neg (hne 0x07 (by decide)), if_neg (hne 0x08 (by decide)),
    if_neg (hne 0x09 (by decide)), if_neg (hne 0x0A (by decide)), if_neg (hne 0x0B (by decide)),
    if_neg (hne 0x0C (by decide))]

theorem readRegister_snap {r : BitVec 7} (k : Fin 8) (hr : r.toNat = 0x10 + k.val) (s : State) :
    readRegister s r = s.snap[k] := by
  rw [readRegister_upper (by omega), dif_pos (by omega)]
  simp only [hr, Nat.add_sub_cancel_left]
  rfl

theorem readRegister_slot {r : BitVec 7} (n : Slot) (hr : r.toNat = 0x20 + n.val) (s : State) :
    readRegister s r = slotReg s n := by
  rw [readRegister_upper (by omega), dif_neg (by omega), dif_pos (by omega)]
  simp only [hr, Nat.add_sub_cancel_left]

theorem readRegister_staged {r : BitVec 7} (k : Fin 21) (hr : r.toNat = 0x40 + k.val) (s : State) :
    readRegister s r = s.staged[k] := by
  rw [readRegister_upper (by omega), dif_neg (by omega), dif_neg (by omega), dif_pos (by omega)]
  simp only [hr, Nat.add_sub_cancel_left]
  rfl

theorem readRegister_active {r : BitVec 7} (k : Fin 21) (hr : r.toNat = 0x60 + k.val) (s : State) :
    readRegister s r = s.active[k] := by
  rw [readRegister_upper (by omega), dif_neg (by omega), dif_neg (by omega), dif_neg (by omega), dif_pos (by omega)]
  simp only [hr, Nat.add_sub_cancel_left]
  rfl

/-- An unlisted number reads as 0 (R164). -/
theorem readRegister_unlisted {r : BitVec 7}
    (h : 0x0C < r.toNat ∧ r.toNat < 0x10 ∨ 0x17 < r.toNat ∧ r.toNat < 0x20 ∨ 0x2B < r.toNat ∧ r.toNat < 0x40
      ∨ 0x54 < r.toNat ∧ r.toNat < 0x60 ∨ 0x74 < r.toNat) (s : State) : readRegister s r = 0 := by
  rcases Nat.lt_or_ge r.toNat 0x10 with hlow | hhigh
  · have hr : r = 0x0D ∨ r = 0x0E ∨ r = 0x0F := by bv_omega
    rcases hr with rfl | rfl | rfl <;> rfl
  · rw [readRegister_upper hhigh, dif_neg (by omega), dif_neg (by omega), dif_neg (by omega), dif_neg (by omega)]

/-! ## Writes (R164) -/

theorem writeRegister_staged {r : BitVec 7} (k : Fin 21) (hr : r.toNat = 0x40 + k.val) (v : Word) (s : State) :
    writeRegister r v s = { s with staged := s.staged.set k.val v } := by
  rw [writeRegister, dif_pos (by omega)]
  simp only [hr, Nat.add_sub_cancel_left]

/-- A read-only or unlisted register takes nothing. -/
theorem writeRegister_unwritten {r : BitVec 7} (h : r.toNat < 0x07 ∨ 0x0B < r.toNat ∧ r.toNat < 0x40 ∨ 0x54 < r.toNat)
    (v : Word) (s : State) : writeRegister r v s = s := by
  have hne (c : BitVec 7) (hc : 0x07 ≤ c.toNat ∧ c.toNat ≤ 0x0B) : r ≠ c := by
    rintro rfl
    omega
  rw [writeRegister, dif_neg (by omega), if_neg (hne 0x0A (by decide)), if_neg (hne 0x0B (by decide)),
    if_neg (hne 0x07 (by decide)), if_neg (hne 0x08 (by decide)), if_neg (hne 0x09 (by decide))]

theorem exec_registerWrite_running {s : State} (hr : s.inReset = false) (r : BitVec 7) (v : Word) :
    exec (.registerWrite r v) s = .next (writeRegister r v s) := congrArg Host.Outcome.next (unlessReset_running hr _)

/-! ## The status registers (Table 10-2) -/

/-- A field no wider than a register reads as its value. -/
theorem toNat_setWidth_word {w : Nat} (h : w ≤ 16) (x : BitVec w) : (x.setWidth 16).toNat = x.toNat :=
  BitVec.toNat_setWidth_of_le h

theorem supplyCode_le (x : Supply) : supplyCode x ≤ 3 := by cases x <;> decide

theorem slotStateCode_le (x : SlotState) : slotStateCode x ≤ 6 := by cases x <;> decide

theorem countWhere_le (s : State) (p : Entry → Bool) : countWhere s p ≤ 32 := by
  have h := List.length_filter_le (fun i => p (s.entry i)) allIdx
  simpa [countWhere, entriesWhere, allIdx] using h

theorem statusReg_toNat (s : State) :
    (statusReg s).toNat = supplyCode s.supply * 16384
      + (match s.qualified with | none => 0 | some b => b.val * 4096 + 2048) + s.sampled.val * 512
      + (if s.deficit then 256 else 0) + (if windowValid s then 128 else 0) + s.straps.toNat * 16 := by
  have hband : (s.qualified.getD 0).val * 4096 + bit s.qualified.isSome * 2048
      = match s.qualified with | none => 0 | some b => b.val * 4096 + 2048 := by
    cases s.qualified <;> simp [bit]
  have hsupply := supplyCode_le s.supply
  have hqualified := bit_le_one s.qualified.isSome
  have hdeficit := bit_le_one s.deficit
  have hwindow := bit_le_one (windowValid s)
  have hstraps := s.straps.isLt
  rw [← hband, ← bit_mul, ← bit_mul, statusReg, toNat_ofNat_word (by omega)]
  rw [Nat.add_assoc (supplyCode s.supply * 16384)]

theorem countsReg_toNat (s : State) :
    (countsReg s).toNat = countWhere s (fun e => e.state == .waiting) * 256 + countWhere s (fun e => e.state == .free) := by
  have hwaiting := countWhere_le s (fun e => e.state == .waiting)
  have hfree := countWhere_le s (fun e => e.state == .free)
  rw [countsReg, waitingCount, toNat_ofNat_word (by omega)]

theorem EntriesOk.heldTotal_le {s : State} (h : EntriesOk s) : heldTotal s ≤ 32736 := by
  have hsum := List.sum_le_card_nsmul (allIdx.map fun i => (s.entry i).held) 1023 fun x hx => by
    obtain ⟨i, -, rfl⟩ := List.mem_map.mp hx
    exact (h i).held_le
  have hcard : allIdx.length = 32 := List.length_finRange
  rw [List.length_map, hcard, smul_eq_mul] at hsum
  exact hsum

/-- A queue in order holds at most one notice for each entry. -/
theorem OutboxOk.length_notices_le {s : State} {n : Slot} (h : OutboxOk s n) : (s.outbox n).notices.length ≤ 32 := by
  have hnodup : ((s.outbox n).notices.map Notice.index).Nodup := List.pairwise_map.mpr (h.1.imp And.left)
  simpa using hnodup.length_le_card

theorem ofSlotIn_eq {p : EntryState → Bool} (hp : p .free = false) (n : Slot) :
    ofSlotIn n p = fun e => e.slot == n && p e.state := by
  funext e
  have hnonfree : (e.state != .free && p e.state) = p e.state := by cases e.state <;> simp [hp]
  rw [ofSlotIn, ofSlot, Bool.and_right_comm, hnonfree, Bool.and_comm]

theorem slotReg_toNat {s : State} (hinv : Inv s) (n : Slot) :
    (slotReg s n).toNat = slotStateCode (s.slotRec n).state * 8192 + (s.slotRec n).trips * 512
      + countWhere s (fun e => e.slot == n && isLive e.state) * 64
      + countWhere s (fun e => e.slot == n && e.state == .enabling) * 8 + (s.outbox n).notices.length := by
  obtain ⟨-, -, -, -, -, -, -, -, -, -, -, htrips, -⟩ := hinv.slots.1 n
  have hstate := slotStateCode_le (s.slotRec n).state
  have hlive := countWhere_le s (ofSlotIn n isLive)
  have henabling := countWhere_le s (ofSlotIn n fun st => st == .enabling)
  have hnotices := (hinv.notices.1 n).length_notices_le
  rw [slotReg, toNat_ofNat_word (by omega), ofSlotIn_eq rfl, ofSlotIn_eq rfl]

/-! ## The frame (R163, R177) -/

theorem takeWire_csn_same {s : State} (hr : s.inReset = false) {level : Bool} (h : level = s.pins.csn) :
    takeWire (.csn level) s = s := (takeWire_running hr _).trans (if_pos h)

theorem takeWire_csn_fall {s : State} (hr : s.inReset = false) (h : s.pins.csn = true) :
    takeWire (.csn false) s = { s with pins := { s.pins with csn := false }, frame := .command [] } := by
  rw [takeWire_running hr]
  simp [takeWireRunning, moveCsn, h]

/-- CSn high with the frame ended. -/
def csnHigh (s : State) : State := { s with pins := { s.pins with csn := true }, frame := .closed }

theorem takeWire_csn_rise {s : State} (hr : s.inReset = false) (h : s.pins.csn = false) :
    takeWire (.csn true) s = endFrame s.frame (csnHigh s) := by
  rw [takeWire_running hr]
  simp [takeWireRunning, moveCsn, h, csnHigh]

theorem takeWire_sck_same {s : State} (hr : s.inReset = false) {level : Bool} (h : level = s.pins.sck) :
    takeWire (.sck level) s = s := (takeWire_running hr _).trans (if_pos h)

theorem takeWire_sck_moves {s : State} (hr : s.inReset = false) {level : Bool} (h : level ≠ s.pins.sck) :
    takeWire (.sck level) s = { s with pins := { s.pins with sck := level }, frame := frameAfterSck level s } :=
  (takeWire_running hr _).trans (if_neg h)

/-- A rise of SCK samples SDI: a bit of the command byte, its eighth with the capture, or a data bit (R163). -/
theorem takeWire_sck_command {s : State} (hr : s.inReset = false) {bits : List Bool} (hf : s.frame = .command bits)
    (hsck : s.pins.sck = false) :
    takeWire (.sck true) s =
      { s with
        pins := { s.pins with sck := true }
        frame := if (bits ++ [s.pins.sdi]).length < 8 then .command (bits ++ [s.pins.sdi])
          else .data (byteOf (bits ++ [s.pins.sdi])) (readRegister s ((byteOf (bits ++ [s.pins.sdi])).setWidth 7)) [] } := by
  rw [takeWire_sck_moves hr (by simp [hsck])]
  simp [frameAfterSck, sampleSdi, hf]

theorem takeWire_sck_data {s : State} (hr : s.inReset = false) {command : Byte} {v : Word} {bits : List Bool}
    (hf : s.frame = .data command v bits) (hsck : s.pins.sck = false) :
    takeWire (.sck true) s =
      { s with pins := { s.pins with sck := true }, frame := .data command v (bits ++ [s.pins.sdi]) } := by
  rw [takeWire_sck_moves hr (by simp [hsck])]
  simp [frameAfterSck, sampleSdi, hf]

theorem spiCommand_eq (clocked : Nat) (command : Byte) (v : Word) :
    spiCommand clocked command v =
      if clocked = 24 ∧ command.msb = false then some (writeFrame (command.setWidth 7) v) else none := rfl

/-- A frame is taken as the command it spells, and changes nothing where it spells none (R163). -/
theorem takeWire_csn_ends {s : State} (hr : s.inReset = false) (h : s.pins.csn = false) {command : Byte} {v : Word}
    {bits : List Bool} (hf : s.frame = .data command v bits) :
    (∀ c : Instr, spiCommand (8 + bits.length) command (BitVec.ofNat 16 (bitsValue bits)) = some c →
      exec c (csnHigh s) = .next (takeWire (.csn true) s))
    ∧ (spiCommand (8 + bits.length) command (BitVec.ofNat 16 (bitsValue bits)) = none →
      takeWire (.csn true) s = csnHigh s) := by
  rw [takeWire_csn_rise hr h, hf, spiCommand_eq, endFrame]
  by_cases htaken : bits.length = 16 ∧ command.msb = false
  · rw [if_pos htaken, if_pos (htaken.imp_left fun hlen => by omega)]
    refine ⟨fun c hc => ?_, fun hc => by cases hc⟩
    obtain rfl := Option.some.inj hc
    exact (exec_writeFrame _ _ _).trans (congrArg Host.Outcome.next (unlessReset_running (s := csnHigh s) hr _))
  · rw [if_neg htaken, if_neg (mt (And.imp_left fun hlen => by omega) htaken)]
    exact ⟨fun c hc => (by cases hc), fun _ => rfl⟩

/-- SDO in a data phase, by how often SCK has fallen since the eighth bit (R163). -/
theorem sdo_data {s : State} {command : Byte} {v : Word} {bits : List Bool} (hf : s.frame = .data command v bits) :
    (s.pins.sck = true → bits = [] → sdo s = some false)
    ∧ (∀ k : Nat, (s.pins.sck = false ∧ bits.length = k ∨ s.pins.sck = true ∧ bits.length = k + 1) →
        (k < 16 → sdo s = some (v.getMsbD k)) ∧ (16 ≤ k → sdo s = some false)) := by
  refine ⟨fun hsck hbits => by simp [sdo, hf, hsck, hbits], fun k hk => ?_⟩
  have hfalls : (if s.pins.sck then bits.length else bits.length + 1) = k + 1 := by
    rcases hk with ⟨hsck, rfl⟩ | ⟨hsck, hl⟩ <;> simp [*]
  have hsdo : sdo s = some (decide (1 ≤ k + 1 ∧ k + 1 ≤ 16) && v.getLsbD (16 - (k + 1))) := by
    simp only [sdo, hf, hfalls]
  refine ⟨fun hlt => ?_, fun hge => ?_⟩
  · have hplace : 16 - (k + 1) = 16 - 1 - k := by omega
    rw [hsdo, BitVec.getMsbD, hplace]
    simp [hlt]
  · rw [hsdo]
    simp; omega

/-- Settles O42: the writes, the registers as they read, and the frame from its fall to its rise. -/
theorem registerWrites : Obligations.RegisterWrites := by
  refine ⟨fun r v s hr => ⟨fun k hk => ?staged, fun h => ?arg0, fun h => ?arg1, fun h => ?unwritten,
    fun h => readRegister_unlisted h s⟩, fun s => ?reads, fun s hr => ?frames, fun clocked command v => ?command⟩
  case staged =>
    refine ⟨_, exec_registerWrite_running hr r v, writeRegister_staged k hk v s, ?_⟩
    rw [readRegister_staged k hk, writeRegister_staged k hk]
    simp
  case arg0 => exact ⟨_, exec_registerWrite_running hr r v, by rw [h]; rfl, by rw [h]; rfl⟩
  case arg1 => exact ⟨_, exec_registerWrite_running hr r v, by rw [h]; rfl, by rw [h]; rfl⟩
  case unwritten => rw [exec_registerWrite_running hr, writeRegister_unwritten h]
  case reads =>
    have hnumber (base k : Nat) (h : base + k < 128) : (BitVec.ofNat 7 (base + k)).toNat = base + k := by
      rw [BitVec.toNat_ofNat, Nat.mod_eq_of_lt h]
    refine ⟨rfl, statusReg_toNat s, ?_, countsReg_toNat s, ?_, ?_, ?_, rfl, rfl, rfl,
      fun k => readRegister_snap k (hnumber _ _ (by omega)) s,
      fun k => ⟨readRegister_staged k (hnumber _ _ (by omega)) s, readRegister_active k (hnumber _ _ (by omega)) s⟩,
      fun hinv => ⟨?_, ?_, ?_, fun n => ?_⟩⟩
    · exact toNat_setWidth_word (by decide) s.railCode
    · exact toNat_setWidth_word (by decide) s.events
    · exact toNat_setWidth_word (by decide) s.evmask
    · exact toNat_setWidth_word (by decide) s.cmd
    · exact toNat_ofNat_word (hinv.capacity.1.trans (by decide))
    · exact toNat_ofNat_word (hinv.entries.heldTotal_le.trans (by decide))
    · exact toNat_ofNat_word ((pendingTotal_le s).trans (hinv.entries.heldTotal_le.trans (by decide)))
    · rw [readRegister_slot n (hnumber _ _ (by omega)), slotReg_toNat hinv]
  case frames =>
    refine ⟨takeWire_csn_fall hr, fun level => takeWire_csn_same hr, fun level => takeWire_running hr _,
      fun level => takeWire_sck_same hr, fun bits hf hsck => ?bit,
      fun command v bits hf => ⟨takeWire_sck_data hr hf, fun hcsn => takeWire_csn_ends hr hcsn hf⟩, fun hf hsck => ?falls,
      fun hcsn hf => ?discarded, fun level edges hf hsck => ?missed, fun hf => by simp [sdo, hf],
      fun bits hf => by simp [sdo, hf], fun command v bits => sdo_data⟩
    case bit =>
      have hmove := takeWire_sck_command hr hf hsck
      rw [List.length_append, List.length_singleton] at hmove
      refine ⟨fun hl => ?_, fun hl => ?_⟩
      · rw [hmove, if_pos (by omega)]
      · rw [hmove, if_neg (by omega)]
    case falls =>
      rw [takeWire_sck_moves hr (by simp [hsck])]
      cases h : s.frame with
      | missed edges => exact absurd h (hf edges)
      | _ => simp [frameAfterSck, h]
    case discarded =>
      rw [takeWire_csn_rise hr hcsn]
      cases h : s.frame with
      | data command v bits => exact absurd h (hf command v bits)
      | _ => rfl
    case missed =>
      rw [takeWire_sck_moves hr hsck]
      simp [frameAfterSck, hf]
  case command =>
    refine ⟨fun h => ?_, fun h1 h2 => ?_⟩
    · rw [spiCommand_eq, if_neg]
      rintro ⟨h24, hmsb⟩
      rcases h with h | h
      · exact h h24
      · simp [hmsb] at h
    · rw [spiCommand_eq, if_pos ⟨h1, h2⟩]

end Sys2Proof.Machine
end

section
/-! PROOFS. What every step keeps (chapters 1 to 10): the groups of the invariant one by one, and how each group fares when the
entries, the lists, the outboxes or the slots of a state change. -/

namespace Sys2Proof.Machine

/-! ## The groups -/

def EntriesAhead (s : State) : Prop := ∀ i : Idx, EntryAhead s (s.entry i)

/-- No timer of a slot is overdue. -/
def RecAhead (s : State) (r : SlotRec) : Prop :=
  Ahead s r.presence ∧ Ahead s r.blanking ∧ Ahead s r.fault ∧ Ahead s r.stable ∧ Ahead s r.cooldown

def SlotsAhead (s : State) : Prop := ∀ n : Slot, RecAhead s (s.slotRec n)

/-- The uncovered excess is 0 (R52). -/
def Covered (s : State) : Prop := heldTotal s ≤ pendingTotal s + s.capacity

def FlagOk (s : State) : Prop := s.deficit = true ↔ s.capacity < heldTotal s

/-- What `SlotOk` asks of a slot apart from the supply: its record, the Inrush Queue and the entries of the slot agree. -/
structure SlotCore (s : State) (n : Slot) : Prop where
  switch : (s.slotRec n).switch = true ↔ (s.slotRec n).state = .on
  key : (s.slotRec n).key.isSome = true ↔ (s.slotRec n).state = .queued
  inrush : n ∈ s.inrush ↔ (s.slotRec n).state = .queued
  need : hasNeed s n = true ↔
    (s.slotRec n).state = .queued ∨ (s.slotRec n).state = .on ∨ (s.slotRec n).state = .suspended
  energized : (s.slotRec n).state = .on → ∀ i : Idx, (s.entry i).slot = n → (s.entry i).state ≠ .enabling
  unseated : (s.slotRec n).seated = false → (s.slotRec n).state = .empty ∨ (s.slotRec n).state = .blocked
  empty : (s.slotRec n).state = .empty → (s.slotRec n).seated = false
  vacant : (s.slotRec n).seated = false → ∀ i : Idx, ofSlot n (s.entry i) = false
  cleared : (s.slotRec n).state = .tripped ∨ (s.slotRec n).state = .blocked →
    ∀ i : Idx, ofSlotIn n isStanding (s.entry i) = false
  timed : (s.slotRec n).blanking.isSome = true ∨ (s.slotRec n).fault.isSome = true ∨ (s.slotRec n).stable.isSome = true →
    (s.slotRec n).state = .on
  cooling : (s.slotRec n).cooldown.isSome = true ↔ (s.slotRec n).state = .tripped
  trips : (s.slotRec n).trips ≤ 15
  tripLimit : (s.slotRec n).state ≠ .blocked → (s.slotRec n).trips ≤ 14

/-- What `SlotOk` asks of a slot's state and the supply (R151, R157). -/
structure SlotSupplied (s : State) (n : Slot) : Prop where
  powered : (s.slotRec n).state = .on ∨ (s.slotRec n).state = .queued → s.supply = .operating
  suspended : (s.slotRec n).state = .suspended → s.supply = .hold

theorem slotOk_iff (s : State) (n : Slot) : SlotOk s n ↔ SlotCore s n ∧ SlotSupplied s n := by
  constructor
  · rintro ⟨h1, h2, h3, h4, h5, h6, h7, h8, h9, h10, h11, h12, h13, h14, h15⟩
    exact ⟨⟨h1, h2, h3, h4, h5, h6, h7, h8, h9, h10, h11, h12, h13⟩, h14, h15⟩
  · rintro ⟨⟨h1, h2, h3, h4, h5, h6, h7, h8, h9, h10, h11, h12, h13⟩, h14, h15⟩
    exact ⟨h1, h2, h3, h4, h5, h6, h7, h8, h9, h10, h11, h12, h13, h14, h15⟩

/-- The slots apart from the supply. -/
structure SlotsCore (s : State) : Prop where
  slot : ∀ n : Slot, SlotCore s n
  nodup : s.inrush.Nodup
  ordered : s.inrush.Pairwise fun m n => (s.slotRec n).key.getD 0 ≤ (s.slotRec m).key.getD 0

theorem slotsOk_iff (s : State) : SlotsOk s ↔ SlotsCore s ∧ ∀ n, SlotSupplied s n := by
  simp only [SlotsOk, slotOk_iff]
  exact ⟨fun ⟨h, hn, ho⟩ => ⟨⟨fun n => (h n).1, hn, ho⟩, fun n => (h n).2⟩,
    fun ⟨⟨h, hn, ho⟩, hs⟩ => ⟨fun n => ⟨h n, hs n⟩, hn, ho⟩⟩

/-- The notice belongs to the entry, and the slot's queue is its own (R105, R106). -/
def NoticeOf (e : Entry) (n : Slot) (x : Notice) : Prop :=
  e.slot = n ∧ x.gen = e.gen ∧ x.tag = e.tag ∧ noticeFits e x

theorem NoticesOk.noticeOf {s : State} (h : NoticesOk s) {n : Slot} {x : Notice} (hx : x ∈ (s.outbox n).notices) :
    NoticeOf (s.entry x.index) n x := by
  obtain ⟨hslot, hgen, htag, -, hfits⟩ := (h.1 n).2.1 x hx
  exact ⟨hslot, hgen, htag, hfits⟩

theorem noticeFits_alive {e : Entry} {x : Notice} (h : noticeFits e x) : e.state ≠ .free := by
  intro hfree
  cases hk : x.kind <;> simp [noticeFits, hk, hfree, countsLease] at h

/-! ## Entries -/

theorem EntriesOk.of_update {s t : State} {i : Idx} {e : Entry} (h : ∀ j, t.entry j = if j = i then e else s.entry j)
    (he : EntryOk (s.entry i) → EntryOk e) (hs : EntriesOk s) : EntriesOk t := by
  intro j
  rw [h j]
  split
  · exact he (hs i)
  · exact hs j

theorem EntryAhead.of_now {s t : State} (h : t.now = s.now) {e : Entry} (he : EntryAhead s e) : EntryAhead t e := by
  simpa only [EntryAhead, Ahead, h] using he

theorem EntriesAhead.of_update {s t : State} {i : Idx} {e : Entry} (hnow : t.now = s.now)
    (h : ∀ j, t.entry j = if j = i then e else s.entry j) (he : EntryAhead s (s.entry i) → EntryAhead s e)
    (hs : EntriesAhead s) : EntriesAhead t := by
  intro j
  rw [h j]
  refine .of_now hnow ?_
  split
  · exact he (hs i)
  · exact hs j

theorem now_le_expiryAfter (s : State) (d : Nat) : s.now ≤ 2 * expiryAfter s d := by
  unfold expiryAfter firstTick
  omega

theorem ahead_expiryAfter (s : State) (d : Nat) : Ahead s (some (expiryAfter s d)) := by
  rintro x hx
  obtain rfl := Option.some.inj hx
  exact now_le_expiryAfter s d

theorem ahead_none (s : State) : Ahead s none := by
  intro x hx
  cases hx

/-- An entry with a fresh deadline, or none, and no more lease period than before is ahead. -/
theorem EntryAhead.of_timers {s : State} {x e : Entry} (hd : Ahead s e.deadline)
    (hp : e.period = none ∨ e.period = x.period ∧ e.lease = x.lease) (hx : EntryAhead s x) : EntryAhead s e := by
  refine ⟨hd, ?_⟩
  rcases hp with hp | ⟨hp, hl⟩
  · rw [hp]
    intro p hp
    cases hp
  · rw [hp, hl]
    exact hx.2

/-- A lease period that starts now has nothing behind it. -/
theorem newPeriod_ahead (s : State) {e : Entry} (hd : Ahead s e.deadline) (hp : e.period = newPeriod s e.lease) :
    EntryAhead s e := by
  refine ⟨hd, fun p hmem => ?_⟩
  rw [hp, newPeriod] at hmem
  split at hmem
  · cases hmem
  · obtain rfl := Option.some.inj hmem
    simp only [firstTick]
    omega

/-! ## The limits of a slot (R16, R17) -/

theorem countWhere_le_countWhere {s t : State} {p q : Entry → Bool} (h : ∀ i, q (t.entry i) = true → p (s.entry i) = true) :
    countWhere t q ≤ countWhere s p := by
  rw [countWhere, countWhere, entriesWhere, entriesWhere, ← List.countP_eq_length_filter, ← List.countP_eq_length_filter]
  exact List.countP_mono_left fun i _ => h i

theorem SlotLimits.of_entries {s t : State}
    (h : ∀ i, (t.entry i).state ≠ .free →
      (s.entry i).state ≠ .free ∧ (t.entry i).slot = (s.entry i).slot ∧ (t.entry i).tag = (s.entry i).tag)
    (hs : SlotLimits s) : SlotLimits t := by
  refine ⟨fun n => (countWhere_le_countWhere fun i hi => ?_).trans (hs.1 n), fun i j hi hj hslot htag => ?_⟩
  · obtain ⟨hfree, hn⟩ := (ofSlot_iff n _).mp hi
    obtain ⟨hold, hslot, -⟩ := h i hfree
    exact (ofSlot_iff n _).mpr ⟨hold, hslot ▸ hn⟩
  · obtain ⟨hold, hsi, hti⟩ := h i hi
    obtain ⟨hold', hsj, htj⟩ := h j hj
    exact hs.2 i j hold hold' (by rw [← hsi, ← hsj, hslot]) (by rw [← hti, ← htj, htag])

/-! ## The lists -/

theorem ListsOk.of_kinds {s t : State} (hw : t.waitQueue = s.waitQueue) (ha : t.admission = s.admission)
    (h : ∀ i, ((t.entry i).state = .waiting ↔ (s.entry i).state = .waiting)
      ∧ isAdmitted (t.entry i).state = isAdmitted (s.entry i).state ∧ (t.entry i).cls = (s.entry i).cls)
    (hs : ListsOk s) : ListsOk t := by
  obtain ⟨hwn, han, hwait, hadm, hcls⟩ := hs
  refine ⟨hw ▸ hwn, ha ▸ han, fun i => ?_, fun i => ?_, ?_⟩
  · rw [hw, (h i).1, hwait]
  · rw [ha, (h i).2.1, hadm]
  · rw [hw]
    exact hcls.imp fun {i j} hij => by rw [(h i).2.2, (h j).2.2]; exact hij

theorem mem_filter_ne {l : List Idx} {i j : Idx} : j ∈ l.filter (· != i) ↔ j ∈ l ∧ j ≠ i := by simp

theorem pairwise_cls_left {s t : State} {i : Idx} {e : Entry} (h : ∀ j, t.entry j = if j = i then e else s.entry j)
    {l : List Idx} (hl : l.Pairwise fun j k => (s.entry k).cls ≤ (s.entry j).cls) :
    (l.filter (· != i)).Pairwise fun j k => (t.entry k).cls ≤ (t.entry j).cls := by
  rw [List.pairwise_filter]
  refine hl.imp fun {j k} hjk hj hk => ?_
  rw [h j, h k, if_neg (by simpa using hk), if_neg (by simpa using hj)]
  exact hjk

/-- An entry that is neither WAITING nor admitted any more has left both lists. -/
theorem ListsOk.of_left {s t : State} {i : Idx} {e : Entry} (h : ∀ j, t.entry j = if j = i then e else s.entry j)
    (hw : t.waitQueue = s.waitQueue.filter (· != i)) (ha : t.admission = s.admission.filter (· != i))
    (hwait : e.state ≠ .waiting) (hadm : isAdmitted e.state = false) (hs : ListsOk s) : ListsOk t := by
  obtain ⟨hwn, han, hmemw, hmema, hcls⟩ := hs
  refine ⟨hw ▸ hwn.filter _, ha ▸ han.filter _, fun j => ?_, fun j => ?_, ?_⟩
  · rw [hw, mem_filter_ne, hmemw, h j]
    by_cases hj : j = i <;> simp [hj, hwait]
  · rw [ha, mem_filter_ne, hmema, h j]
    by_cases hj : j = i <;> simp [hj, hadm]
  · rw [hw]
    exact pairwise_cls_left h hcls

/-- An admitted entry is at the end of the Admission Order (R18, R29). -/
theorem ListsOk.of_admitted {s t : State} {i : Idx} {e : Entry} (h : ∀ j, t.entry j = if j = i then e else s.entry j)
    (hw : t.waitQueue = s.waitQueue.filter (· != i)) (ha : t.admission = s.admission.filter (· != i) ++ [i])
    (hadm : isAdmitted e.state = true) (hs : ListsOk s) : ListsOk t := by
  have hwait : e.state ≠ .waiting := by
    intro hst
    simp [hst, isAdmitted] at hadm
  obtain ⟨hwn, han, hmemw, hmema, hcls⟩ := hs
  refine ⟨hw ▸ hwn.filter _, ?_, fun j => ?_, fun j => ?_, ?_⟩
  · rw [ha]
    exact (han.filter _).append (List.nodup_singleton i) (by simp [List.Disjoint])
  · rw [hw, mem_filter_ne, hmemw, h j]
    by_cases hj : j = i <;> simp [hj, hwait]
  · rw [ha, List.mem_append, mem_filter_ne, hmema, h j, List.mem_singleton]
    by_cases hj : j = i <;> simp [hj, hadm]
  · rw [hw]
    exact pairwise_cls_left h hcls

/-- An entry that joins the Wait Queue between those ahead of it and those behind it (R30, R33). -/
theorem ListsOk.of_joined {s t : State} {i : Idx} {e : Entry} {l : List Idx} {ahead : Idx → Bool}
    (h : ∀ j, t.entry j = if j = i then e else s.entry j) (hl : l = s.waitQueue.filter (· != i))
    (hw : t.waitQueue = l.takeWhile ahead ++ i :: l.dropWhile ahead) (ha : t.admission = s.admission.filter (· != i))
    (hwait : e.state = .waiting) (hahead : ∀ j ∈ l.takeWhile ahead, e.cls ≤ (s.entry j).cls)
    (hbehind : ∀ j ∈ l.dropWhile ahead, (s.entry j).cls ≤ e.cls) (hs : ListsOk s) : ListsOk t := by
  obtain ⟨hwn, han, hmemw, hmema, hcls⟩ := hs
  have hperm : List.Perm t.waitQueue (i :: l) := by
    rw [hw]
    exact List.perm_middle.trans (by rw [List.takeWhile_append_dropWhile])
  have hother (j : Idx) (hj : j ∈ l) : t.entry j = s.entry j := by
    rw [hl, mem_filter_ne] at hj
    rw [h j, if_neg hj.2]
  have hself : t.entry i = e := by rw [h i, if_pos rfl]
  have hordered : l.Pairwise fun j k => (t.entry k).cls ≤ (t.entry j).cls := hl ▸ pairwise_cls_left h hcls
  rw [← List.takeWhile_append_dropWhile (p := ahead) (l := l), List.pairwise_append] at hordered
  obtain ⟨hfront, hback, hacross⟩ := hordered
  refine ⟨hperm.nodup_iff.mpr (List.nodup_cons.mpr ⟨by simp [hl], hl ▸ hwn.filter _⟩), ha ▸ han.filter _, fun j => ?_,
    fun j => ?_, ?_⟩
  · rw [hperm.mem_iff, List.mem_cons, hl, mem_filter_ne, hmemw, h j]
    by_cases hj : j = i <;> simp [hj, hwait]
  · rw [ha, mem_filter_ne, hmema, h j]
    by_cases hj : j = i <;> simp [hj, hwait, isAdmitted]
  · rw [hw, List.pairwise_append, List.pairwise_cons]
    refine ⟨hfront, ⟨fun k hk => ?_, hback⟩, fun j hj k hk => ?_⟩
    · rw [hself, hother k (List.dropWhile_subset _ hk)]
      exact hbehind k hk
    · rcases List.mem_cons.mp hk with rfl | hk
      · rw [hself, hother j (List.takeWhile_subset _ hj)]
        exact hahead j hj
      · exact hacross j hj k hk

end Sys2Proof.Machine
end

section
/-! PROOFS. What every step keeps, continued: the notices, the slots and the budget when an entry changes. -/

namespace Sys2Proof.Machine

/-! ## Notices (R102, R104 to R107) -/

/-- No new notice, and every notice left fits its entry as it stands now. -/
theorem NoticesOk.of_kept {s t : State} (hs : NoticesOk s) (hnext : s.nextItem ≤ t.nextItem)
    (hreply : ∀ n, ∀ r ∈ (t.outbox n).reply, r.id < t.nextItem)
    (hqueue : ∀ n, (t.outbox n).notices.Sublist (s.outbox n).notices)
    (hfits : ∀ n, ∀ x ∈ (t.outbox n).notices, NoticeOf (s.entry x.index) n x → NoticeOf (t.entry x.index) n x)
    (hclosed : ∀ i, (t.entry i).state = .retired → noticePending t (t.entry i).slot i .closed = true) : NoticesOk t := by
  refine ⟨fun n => ⟨(hs.1 n).1.sublist (hqueue n), fun x hx => ?_, hreply n⟩, hclosed⟩
  have hold := (hqueue n).subset hx
  obtain ⟨hslot, hgen, htag, hkind⟩ := hfits n x hx (hs.noticeOf hold)
  obtain ⟨-, -, -, hid, -⟩ := (hs.1 n).2.1 x hold
  exact ⟨hslot, hgen, htag, hid.trans_le hnext, hkind⟩

theorem noticePending_of_kept {s t : State} {n : Slot} {i : Idx} {k : NoticeKind}
    (h : ∀ x ∈ (s.outbox n).notices, x.index = i → x.kind = k → x ∈ (t.outbox n).notices)
    (hs : noticePending s n i k = true) : noticePending t n i k = true := by
  obtain ⟨x, hx, hi, hk⟩ := (noticePending_iff ..).mp hs
  exact (noticePending_iff ..).mpr ⟨x, h x hx hi hk, hi, hk⟩

/-- One entry changes, and of the notices at most some of its own are removed. -/
theorem NoticesOk.of_update {s t : State} {i : Idx} {e : Entry} (hs : NoticesOk s)
    (h : ∀ j, t.entry j = if j = i then e else s.entry j) (hnext : s.nextItem ≤ t.nextItem)
    (hreply : ∀ n, ∀ r ∈ (t.outbox n).reply, r.id < t.nextItem)
    (hqueue : ∀ n, (t.outbox n).notices.Sublist (s.outbox n).notices)
    (hkeeps : ∀ n, ∀ x ∈ (s.outbox n).notices, x.index ≠ i → x ∈ (t.outbox n).notices)
    (hfits : ∀ n, ∀ x ∈ (t.outbox n).notices, x.index = i → NoticeOf (s.entry i) n x → NoticeOf e n x)
    (hclosed : e.state = .retired → noticePending t e.slot i .closed = true) : NoticesOk t := by
  refine hs.of_kept hnext hreply hqueue (fun n x hx hof => ?_) fun j hj => ?_
  · rw [h x.index]
    split
    · next hi => exact hfits n x hx hi (hi ▸ hof)
    · exact hof
  · rw [h j] at hj ⊢
    split at hj
    · next hi => rw [if_pos hi, hi]; exact hclosed hj
    · next hi =>
      rw [if_neg hi]
      exact noticePending_of_kept (fun x hx hx' _ => hkeeps _ x hx (hx' ▸ hi)) (hs.2 j hj)

theorem NoticesOk.reply_lt {s : State} (h : NoticesOk s) {n : Slot} {r : Reply} (hr : r ∈ (s.outbox n).reply) :
    r.id < s.nextItem := (h.1 n).2.2 r hr

/-- One entry changes and its one pending notice is the new one (R102). -/
theorem NoticesOk.of_tells {s t : State} {k : NoticeKind} {i : Idx} {level : Nat} {e : Entry} (hs : NoticesOk s)
    (h : ∀ j, t.entry j = if j = i then e else s.entry j)
    (hid : e.slot = (s.entry i).slot ∧ e.gen = (s.entry i).gen ∧ e.tag = (s.entry i).tag) (ht : Tells s t k i level)
    (hnext : t.nextItem = s.nextItem + 1)
    (hfits : ∀ x : Notice, x.kind = k → x.level = level → noticeFits e x)
    (hclosed : e.state = .retired → k = .closed) : NoticesOk t := by
  obtain ⟨hslot, hgen, htag⟩ := hid
  have hmem (n : Slot) (x : Notice) (hx : x ∈ (t.outbox n).notices) :
      x ∈ (s.outbox n).notices ∧ (n = (s.entry i).slot → x.index ≠ i)
      ∨ n = (s.entry i).slot ∧ x = { id := s.nextItem, kind := k, index := i, gen := (s.entry i).gen,
                                     tag := (s.entry i).tag, level := level } := by
    by_cases hn : n = (s.entry i).slot
    · subst hn
      rw [ht.notices, List.mem_append, List.mem_filter, List.mem_singleton] at hx
      rcases hx with ⟨hx, hi⟩ | hx
      · exact .inl ⟨hx, fun _ => by simpa using hi⟩
      · exact .inr ⟨rfl, hx⟩
    · rw [ht.other hn] at hx
      exact .inl ⟨hx, fun hn' => absurd hn' hn⟩
  refine ⟨fun n => ⟨?_, fun x hx => ?_, fun r hr => ?_⟩, fun j hj => ?_⟩
  · by_cases hn : n = (s.entry i).slot
    · subst hn
      rw [ht.notices, List.pairwise_append]
      refine ⟨(hs.1 _).1.filter _, List.pairwise_singleton _ _, fun x hx y hy => ?_⟩
      obtain ⟨hx, hi⟩ := List.mem_filter.mp hx
      obtain rfl := List.mem_singleton.mp hy
      obtain ⟨-, -, -, hlt, -⟩ := (hs.1 _).2.1 x hx
      exact ⟨by simpa using hi, hlt.ne⟩
    · rw [ht.other hn]
      exact (hs.1 n).1
  · rcases hmem n x hx with ⟨hold, hi⟩ | ⟨rfl, rfl⟩
    · obtain ⟨hsl, hge, hta, hlt, hfit⟩ := (hs.1 n).2.1 x hold
      have hne : x.index ≠ i := fun hxi => hi (by rw [← hxi, hsl]) hxi
      rw [h x.index, if_neg hne, hnext]
      exact ⟨hsl, hge, hta, hlt.trans (Nat.lt_succ_self _), hfit⟩
    · have hself : t.entry i = e := by rw [h i, if_pos rfl]
      rw [hself, hnext]
      exact ⟨hslot, hgen.symm, htag.symm, Nat.lt_succ_self _, hfits _ rfl rfl⟩
  · have hreply : (t.outbox n).reply = (s.outbox n).reply := by
      by_cases hn : n = (s.entry i).slot
      · subst hn
        exact ht.reply
      · rw [ht.other hn]
    rw [hreply] at hr
    rw [hnext]
    exact (hs.reply_lt hr).trans (Nat.lt_succ_self _)
  · rw [h j] at hj ⊢
    split at hj
    · next hi =>
      rw [if_pos hi, hi, hslot, noticePending_iff, ht.notices, hclosed hj]
      exact ⟨_, List.mem_append_right _ (List.mem_singleton.mpr rfl), rfl, rfl⟩
    · next hi =>
      rw [if_neg hi]
      refine noticePending_of_kept (fun x hx hx' _ => ?_) (hs.2 j hj)
      by_cases hn : (s.entry j).slot = (s.entry i).slot
      · rw [hn] at hx ⊢
        rw [ht.notices]
        exact List.mem_append_left _ (List.mem_filter.mpr ⟨hx, by simpa using hx' ▸ hi⟩)
      · rw [ht.other hn]
        exact hx

/-! ## Slots -/

/-- What an entry asks of its slot is what it asked before. -/
structure KeepsNeed (x e : Entry) : Prop where
  need : needsPower e.state = needsPower x.state
  alive : e.state ≠ .free → x.state ≠ .free ∧ e.slot = x.slot
  enabling : e.state = .enabling → x.state = .enabling
  standing : isStanding e.state = true → isStanding x.state = true

theorem KeepsNeed.refl (e : Entry) : KeepsNeed e e := ⟨rfl, fun h => ⟨h, rfl⟩, id, id⟩

theorem hasNeed_of_keepsNeed {s t : State} (h : ∀ i, KeepsNeed (s.entry i) (t.entry i)) (n : Slot) :
    hasNeed t n = hasNeed s n := by
  rw [Bool.eq_iff_iff, hasNeed_iff, hasNeed_iff]
  refine exists_congr fun i => ?_
  rw [(h i).need]
  refine and_congr_left fun hp => ?_
  rw [((h i).alive (needsPower_ne_free ((h i).need.trans hp))).2]

/-- A slot whose record is unchanged and of which no entry asks more. -/
theorem SlotCore.of_entries {s t : State} {n : Slot} (hrec : t.slotRec n = s.slotRec n) (hinrush : n ∈ t.inrush ↔ n ∈ s.inrush)
    (hneed : hasNeed t n = hasNeed s n)
    (halive : ∀ i, ofSlot n (t.entry i) = true → ofSlot n (s.entry i) = true
      ∧ ((s.slotRec n).state = .on → (t.entry i).state = .enabling → (s.entry i).state = .enabling)
      ∧ (isStanding (t.entry i).state = true → isStanding (s.entry i).state = true))
    (hs : SlotCore s n) : SlotCore t n where
  switch := hrec ▸ hs.switch
  key := hrec ▸ hs.key
  inrush := by rw [hrec, hinrush]; exact hs.inrush
  need := by rw [hrec, hneed]; exact hs.need
  energized hon i hi hst := by
    rw [hrec] at hon
    obtain ⟨hof, hen, -⟩ := halive i ((ofSlot_iff ..).mpr ⟨by simp [hst], hi⟩)
    exact hs.energized hon i (ofSlot_slot hof) (hen hon hst)
  unseated := by rw [hrec]; exact hs.unseated
  empty := by rw [hrec]; exact hs.empty
  vacant hseat i := by
    rw [hrec] at hseat
    exact Bool.eq_false_iff.mpr fun hi => Bool.eq_false_iff.mp (hs.vacant hseat i) (halive i hi).1
  cleared hst i := by
    rw [hrec] at hst
    refine Bool.eq_false_iff.mpr fun hi => Bool.eq_false_iff.mp (hs.cleared hst i) ?_
    rw [ofSlotIn, Bool.and_eq_true] at hi ⊢
    obtain ⟨hof, -, hstand⟩ := halive i hi.1
    exact ⟨hof, hstand hi.2⟩
  timed := by rw [hrec]; exact hs.timed
  cooling := by rw [hrec]; exact hs.cooling
  trips := by rw [hrec]; exact hs.trips
  tripLimit := by rw [hrec]; exact hs.tripLimit

theorem SlotsCore.of_keepsNeed {s t : State} (hslots : t.slots = s.slots) (hinrush : t.inrush = s.inrush)
    (h : ∀ i, KeepsNeed (s.entry i) (t.entry i)) (hs : SlotsCore s) : SlotsCore t where
  slot n := by
    refine (hs.slot n).of_entries (slotRec_of_slots hslots n) (by rw [hinrush]) (hasNeed_of_keepsNeed h n) fun i hi => ?_
    obtain ⟨hfree, hn⟩ := (ofSlot_iff ..).mp hi
    obtain ⟨hold, hslot⟩ := (h i).alive hfree
    exact ⟨(ofSlot_iff ..).mpr ⟨hold, hslot ▸ hn⟩, fun _ => (h i).enabling, (h i).standing⟩
  nodup := hinrush ▸ hs.nodup
  ordered := by
    rw [hinrush]
    exact hs.ordered.imp fun {m n} hmn => by rw [slotRec_of_slots hslots, slotRec_of_slots hslots]; exact hmn

/-- The record of an IDLE slot that was powered before. -/
def idleRec (r : SlotRec) : SlotRec :=
  { r with state := .idle, switch := false, key := none, blanking := none, fault := none, stable := none }

theorem SlotCore.of_idle {s t : State} {n : Slot} (hs : SlotCore s n)
    (hold : (s.slotRec n).state = .on ∨ (s.slotRec n).state = .queued ∨ (s.slotRec n).state = .suspended)
    (hrec : t.slotRec n = idleRec (s.slotRec n)) (hinrush : n ∉ t.inrush) (hneed : hasNeed t n = false) : SlotCore t n := by
  have hne (st : SlotState) (hst : st ≠ .on ∧ st ≠ .queued ∧ st ≠ .suspended) : (s.slotRec n).state ≠ st := by
    rintro rfl
    rcases hold with h | h | h
    · exact hst.1 h
    · exact hst.2.1 h
    · exact hst.2.2 h
  have hseated : (s.slotRec n).seated = true := by
    cases h : (s.slotRec n).seated with
    | true => rfl
    | false =>
      rcases hs.unseated h with h | h
      · exact absurd h (hne _ (by decide))
      · exact absurd h (hne _ (by decide))
  have hcool : ¬ (s.slotRec n).cooldown.isSome = true := fun h => hne .tripped (by decide) (hs.cooling.mp h)
  constructor <;> rw [hrec] <;> simp [idleRec, hseated, hinrush, hneed, hcool, hs.trips, hs.tripLimit (hne _ (by decide))]

/-- Entry i is the last of what its powered slot needs (R150). -/
def LastNeed (s : State) (i : Idx) : Prop :=
  needsPower (s.entry i).state = true
  ∧ ((s.slotRec (s.entry i).slot).state = .on
        ∧ (¬ ∃ j, j ≠ i ∧ (s.entry j).slot = (s.entry i).slot ∧ isLive (s.entry j).state = true)
      ∨ ((s.slotRec (s.entry i).slot).state = .queued ∨ (s.slotRec (s.entry i).slot).state = .suspended)
        ∧ ¬ ∃ j, j ≠ i ∧ (s.entry j).slot = (s.entry i).slot ∧ needsPower (s.entry j).state = true)

theorem NeedLost.cases {s t : State} {i : Idx} (h : NeedLost s t i) :
    LastNeed s i ∧ t.slotRec (s.entry i).slot = idleRec (s.slotRec (s.entry i).slot)
        ∧ t.inrush = s.inrush.filter (· != (s.entry i).slot)
    ∨ ¬ LastNeed s i ∧ t.slotRec (s.entry i).slot = s.slotRec (s.entry i).slot ∧ t.inrush = s.inrush := by
  obtain ⟨-, hgone, hkept⟩ := h
  by_cases hg : LastNeed s i
  · exact .inl ⟨hg, hgone hg⟩
  · exact .inr ⟨hg, hkept hg⟩

theorem hasNeed_of_others {s t : State} {i : Idx} {e : Entry} (h : ∀ j, t.entry j = if j = i then e else s.entry j)
    (hlost : needsPower e.state = false) (n : Slot) :
    hasNeed t n = true ↔ ∃ j, j ≠ i ∧ (s.entry j).slot = n ∧ needsPower (s.entry j).state = true := by
  rw [hasNeed_iff]
  refine exists_congr fun j => ?_
  rw [h j]
  by_cases hj : j = i <;> simp [hj, hlost]

/-- An entry that was ENABLING or live, if it needed power at all, no longer does (R150). -/
theorem SlotsCore.of_needLost {s t : State} {i : Idx} {e : Entry} (hneed : NeedLost s t i)
    (h : ∀ j, t.entry j = if j = i then e else s.entry j) (hlost : needsPower e.state = false)
    (halive : e.state ≠ .free → (s.entry i).state ≠ .free ∧ e.slot = (s.entry i).slot)
    (hstanding : isStanding e.state = true → isStanding (s.entry i).state = true) (hs : SlotsCore s) : SlotsCore t := by
  have hrest := hneed.1
  have hof (n : Slot) (j : Idx) (hj : ofSlot n (t.entry j) = true) : ofSlot n (s.entry j) = true
      ∧ ((s.slotRec n).state = .on → (t.entry j).state = .enabling → (s.entry j).state = .enabling)
      ∧ (isStanding (t.entry j).state = true → isStanding (s.entry j).state = true) := by
    rw [h j] at hj ⊢
    split at hj
    · next hji =>
      obtain ⟨hfree, hn⟩ := (ofSlot_iff ..).mp hj
      obtain ⟨hold, hslot⟩ := halive hfree
      rw [if_pos hji, hji]
      refine ⟨(ofSlot_iff ..).mpr ⟨hold, hslot ▸ hn⟩, fun _ hen => ?_, hstanding⟩
      rw [hen] at hlost
      cases hlost
    · next hji => rw [if_neg hji]; exact ⟨hj, fun _ => id, id⟩
  have hinrush : t.inrush = s.inrush.filter (· != (s.entry i).slot) ∨ t.inrush = s.inrush := by
    rcases hneed.cases with ⟨-, -, hq⟩ | ⟨-, -, hq⟩
    · exact .inl hq
    · exact .inr hq
  have hmem (m : Slot) (hm : m ≠ (s.entry i).slot) : m ∈ t.inrush ↔ m ∈ s.inrush := by
    rcases hinrush with hq | hq <;> rw [hq]
    simp [hm]
  have hsub : t.inrush.Sublist s.inrush := by
    rcases hinrush with hq | hq <;> rw [hq]
    exact List.filter_sublist
  refine ⟨fun n => ?_, hs.nodup.sublist hsub, ?_⟩
  · by_cases hn : n = (s.entry i).slot
    case neg =>
      refine (hs.slot n).of_entries (hrest n hn) (hmem n hn) ?_ (hof n)
      rw [Bool.eq_iff_iff, hasNeed_of_others h hlost, hasNeed_iff]
      exact ⟨fun ⟨j, _, hj⟩ => ⟨j, hj⟩, fun ⟨j, hj, hp⟩ => ⟨j, fun hji => hn (by rw [← hj, hji]), hj, hp⟩⟩
    subst hn
    have hcore := hs.slot (s.entry i).slot
    rcases hneed.cases with ⟨hg, hrec, hq⟩ | ⟨hg, hrec, hq⟩
    · refine hcore.of_idle ?_ hrec (by rw [hq]; simp) ?_
      · rcases hg.2 with ⟨hst, -⟩ | ⟨hst, -⟩
        · exact .inl hst
        · exact .inr hst
      · rw [Bool.eq_false_iff, Ne, hasNeed_of_others h hlost]
        rintro ⟨j, hji, hj, hp⟩
        rcases hg.2 with ⟨hst, hno⟩ | ⟨-, hno⟩
        · refine hno ⟨j, hji, hj, ?_⟩
          have hen := hcore.energized hst j hj
          revert hp hen
          cases (s.entry j).state <;> simp [needsPower, isLive]
        · exact hno ⟨j, hji, hj, hp⟩
    · refine hcore.of_entries hrec (by rw [hq]) ?_ (hof _)
      rw [Bool.eq_iff_iff, hasNeed_of_others h hlost, hasNeed_iff]
      refine ⟨fun ⟨j, _, hj⟩ => ⟨j, hj⟩, fun ⟨j, hj, hp⟩ => ?_⟩
      by_contra hno
      refine hg ?_
      have hji : j = i := by
        by_contra hji
        exact hno ⟨j, hji, hj, hp⟩
      refine ⟨hji ▸ hp, ?_⟩
      rcases hcore.need.mp ((hasNeed_iff ..).mpr ⟨j, hj, hp⟩) with hst | hst | hst
      · exact .inr ⟨.inl hst, hno⟩
      · refine .inl ⟨hst, ?_⟩
        rintro ⟨k, hk, hks, hlive⟩
        exact hno ⟨k, hk, hks, isLive_needsPower hlive⟩
      · exact .inr ⟨.inr hst, hno⟩
  · have hkey (m : Slot) (hm : m ∈ t.inrush) : t.slotRec m = s.slotRec m := by
      rcases hneed.cases with ⟨-, -, hq⟩ | ⟨-, hrec, -⟩
      · rw [hq, List.mem_filter] at hm
        exact hrest m (by simpa using hm.2)
      · by_cases hmn : m = (s.entry i).slot
        · rw [hmn]
          exact hrec
        · exact hrest m hmn
    exact (hs.ordered.sublist hsub).imp_of_mem fun {m n} hm hn hmn => by rw [hkey m hm, hkey n hn]; exact hmn

theorem RecAhead.of_now {s t : State} (h : t.now = s.now) {r : SlotRec} (hr : RecAhead s r) : RecAhead t r := by
  simpa only [RecAhead, Ahead, h] using hr

theorem RecAhead.idle {s : State} {r : SlotRec} (hr : RecAhead s r) : RecAhead s (idleRec r) :=
  ⟨hr.1, ahead_none s, ahead_none s, ahead_none s, hr.2.2.2.2⟩

/-- A slot that loses its need keeps its record or is IDLE. -/
theorem NeedLost.slotRec {s t : State} {i : Idx} (h : NeedLost s t i) (n : Slot) :
    t.slotRec n = s.slotRec n ∨ t.slotRec n = idleRec (s.slotRec n) := by
  by_cases hn : n = (s.entry i).slot
  · subst hn
    rcases h.cases with ⟨-, hrec, -⟩ | ⟨-, hrec, -⟩
    · exact .inr hrec
    · exact .inl hrec
  · exact .inl (h.1 n hn)

/-! ## The budget (R50 to R52) -/

/-- H falls by no less than P does. -/
theorem Covered.of_update {s t : State} {i : Idx} {e : Entry} (hc : t.capacity = s.capacity)
    (h : ∀ j, t.entry j = if j = i then e else s.entry j)
    (he : e.held + pendingOf (s.entry i) ≤ (s.entry i).held + pendingOf e) (hs : Covered s) : Covered t := by
  have hrest (j : Idx) (hj : j ≠ i) : t.entry j = s.entry j := by rw [h j, if_neg hj]
  have hself : t.entry i = e := by rw [h i, if_pos rfl]
  have hheld := heldTotal_change i hrest
  have hpending := pendingTotal_change i hrest
  rw [hself] at hheld hpending
  unfold Covered at *
  omega

end Sys2Proof.Machine
end

section
/-! PROOFS. What every step keeps, continued: the transitions of an entry that several events share keep each group of the
invariant (R8, R9, R29, R33, R69, R74). -/

namespace Sys2Proof.Machine

/-! ## Decisions on contracts -/

/-- A decision on contracts: each group of the invariant holds after it as before, slots fall to IDLE at most, and no entry is
admitted out of OPERATING. -/
structure Decides (s t : State) : Prop where
  only : ContractsOnly s t
  entries : EntriesOk s → EntriesOk t
  ahead : EntriesAhead s → EntriesAhead t
  lists : ListsOk s → ListsOk t
  limits : SlotLimits s → SlotLimits t
  notices : NoticesOk s → NoticesOk t
  slots : SlotsCore s → SlotsCore t
  recs : ∀ n, t.slotRec n = s.slotRec n ∨ t.slotRec n = idleRec (s.slotRec n)
  admits : ∀ i, isAdmitted (t.entry i).state = true → isAdmitted (s.entry i).state = true ∨ s.supply = .operating
  covered : EntriesOk s → Covered s → Covered t

theorem idleRec_idleRec (r : SlotRec) : idleRec (idleRec r) = idleRec r := rfl

theorem Decides.refl (s : State) : Decides s s :=
  ⟨.refl s, id, id, id, id, id, id, fun _ => .inl rfl, fun _ => .inl, fun _ => id⟩

theorem Decides.trans {s t u : State} (h : Decides s t) (k : Decides t u) : Decides s u where
  only := h.only.trans k.only
  entries := k.entries ∘ h.entries
  ahead := k.ahead ∘ h.ahead
  lists := k.lists ∘ h.lists
  limits := k.limits ∘ h.limits
  notices := k.notices ∘ h.notices
  slots := k.slots ∘ h.slots
  recs n := by
    rcases h.recs n with hn | hn <;> rcases k.recs n with kn | kn <;> rw [kn, hn]
    · exact .inl rfl
    · exact .inr rfl
    · exact .inr rfl
    · exact .inr (idleRec_idleRec _)
  admits i hi := by
    rcases k.admits i hi with hi | hop
    · exact h.admits i hi
    · exact .inr (h.only.supply ▸ hop)
  covered he hc := k.covered (h.entries he) (h.covered he hc)

theorem Decides.foldl {α : Type} (f : State → α → State) (h : ∀ s a, Decides s (f s a)) (l : List α) (s : State) :
    Decides s (l.foldl f s) := by
  induction l generalizing s with
  | nil => exact .refl s
  | cons a l ih => exact (h s a).trans (ih _)

theorem Decides.ite {p : Prop} [Decidable p] {s t u : State} (h : p → Decides s t) (k : ¬ p → Decides s u) :
    Decides s (if p then t else u) := by
  split
  · next hp => exact h hp
  · next hp => exact k hp

/-- One entry changes and stays in its slot; what it asks of the slot stays too. -/
theorem Decides.of_update {s t : State} {i : Idx} {e : Entry} (only : ContractsOnly s t)
    (h : ∀ j, t.entry j = if j = i then e else s.entry j) (hslots : t.slots = s.slots) (hinrush : t.inrush = s.inrush)
    (hneed : KeepsNeed (s.entry i) e) (htag : e.tag = (s.entry i).tag)
    (entries : EntryOk (s.entry i) → EntryOk e) (ahead : EntryAhead s (s.entry i) → EntryAhead s e)
    (lists : ListsOk s → ListsOk t) (notices : NoticesOk s → NoticesOk t)
    (admits : isAdmitted e.state = true → isAdmitted (s.entry i).state = true ∨ s.supply = .operating)
    (covered : EntriesOk s → Covered s → Covered t) : Decides s t where
  only := only
  entries := .of_update h entries
  ahead := .of_update only.now h ahead
  lists := lists
  limits := .of_entries fun j hj => by
    rw [h j] at hj ⊢
    split at hj
    · next hji =>
      rw [if_pos hji, hji]
      exact ⟨(hneed.alive hj).1, (hneed.alive hj).2, htag⟩
    · next hji => rw [if_neg hji]; exact ⟨hj, rfl, rfl⟩
  notices := notices
  slots := .of_keepsNeed hslots hinrush fun j => by
    rw [h j]
    split
    · next hji => rw [hji]; exact hneed
    · exact .refl _
  recs n := .inl (slotRec_of_slots hslots n)
  admits j hj := by
    rw [h j] at hj
    split at hj
    · next hji => rw [hji]; exact admits hj
    · exact .inl hj
  covered := covered

/-- One entry stops needing power, holds nothing, and its slot is told (R8, R9, R33). -/
theorem Decides.of_needLost {s t : State} {i : Idx} {e : Entry} (only : ContractsOnly s t)
    (h : ∀ j, t.entry j = if j = i then e else s.entry j) (hneed : NeedLost s t i)
    (hadmitted : isAdmitted e.state = false) (hheld : e.held = 0)
    (halive : e.state ≠ .free → (s.entry i).state ≠ .free ∧ e.slot = (s.entry i).slot ∧ e.tag = (s.entry i).tag)
    (hstanding : isStanding e.state = true → isStanding (s.entry i).state = true)
    (entries : EntryOk (s.entry i) → EntryOk e) (ahead : EntryAhead s (s.entry i) → EntryAhead s e)
    (lists : ListsOk s → ListsOk t) (notices : NoticesOk s → NoticesOk t) : Decides s t where
  only := only
  entries := .of_update h entries
  ahead := .of_update only.now h ahead
  lists := lists
  limits := .of_entries fun j hj => by
    rw [h j] at hj ⊢
    split at hj
    · next hji => rw [if_pos hji, hji]; exact halive hj
    · next hji => rw [if_neg hji]; exact ⟨hj, rfl, rfl⟩
  notices := notices
  slots := by
    refine .of_needLost hneed h ?_ (fun hf => ⟨(halive hf).1, (halive hf).2.1⟩) hstanding
    revert hadmitted
    cases e.state <;> simp [isAdmitted, needsPower]
  recs := hneed.slotRec
  admits j hj := by
    rw [h j] at hj
    split at hj
    · rw [hadmitted] at hj
      cases hj
    · exact .inl hj
  covered _ := .of_update only.capacity h (by have := pendingOf_le (s.entry i); omega)

/-- The outboxes change, the entries, the lists and the slots do not. -/
theorem Decides.of_outboxes {s t : State} (only : ContractsOnly s t) (ht : t.table = s.table)
    (hw : t.waitQueue = s.waitQueue) (ha : t.admission = s.admission) (hslots : t.slots = s.slots)
    (hinrush : t.inrush = s.inrush) (notices : NoticesOk s → NoticesOk t) : Decides s t where
  only := only
  entries hs i := by rw [entry_of_table ht]; exact hs i
  ahead hs i := by rw [entry_of_table ht]; exact .of_now only.now (hs i)
  lists := .of_kinds hw ha fun i => by rw [entry_of_table ht]; exact ⟨Iff.rfl, rfl, rfl⟩
  limits := .of_entries fun i hi => by rw [entry_of_table ht] at hi ⊢; exact ⟨hi, rfl, rfl⟩
  notices := notices
  slots := .of_keepsNeed hslots hinrush fun i => by rw [entry_of_table ht]; exact .refl _
  recs n := .inl (slotRec_of_slots hslots n)
  admits i hi := by rw [entry_of_table ht] at hi; exact .inl hi
  covered _ hc := by
    unfold Covered
    rw [heldTotal_of_table ht, pendingTotal_of_table ht, only.capacity]
    exact hc

/-! ## Retirement and freeing (R8, R9) -/

theorem EntryOk.retired {e : Entry} (h : EntryOk e) (hs : e.state ≠ .free) {c : Option Cause} (hc : c.isSome = true)
    {d : Nat} :
    EntryOk { e with state := .retired, cause := c, held := 0, target := none, period := none, deadline := some d } := by
  obtain ⟨-, hlevels, -, -, -, -, -, -, -, -, -, hlease⟩ := h
  simpa [EntryOk, isAdmitted, countsLease, hlease, hc] using hlevels hs

theorem freeEntry_decides (i : Idx) (s : State) : Decides s (freeEntry i s) := by
  have hbox := freeEntry_outbox i s
  refine .of_needLost (freeEntry_only i s) (fun j => freeEntry_entry i j s) (freeEntry_needLost i s) rfl rfl
    (fun h => absurd rfl h) (fun h => (by cases h)) (fun _ => ?_) (fun _ => ⟨ahead_none _, fun p hp => by cases hp⟩)
    (.of_left (fun j => freeEntry_entry i j s) (freeEntry_waitQueue i s) (freeEntry_admission i s) (by simp [blankEntry]) rfl)
    fun hs => hs.of_update (fun j => freeEntry_entry i j s) (freeEntry_nextItem i s).ge (fun n r hr => ?_) (fun n => ?_)
      (fun n x hx hi => ?_) (fun n x hx hi hof => ?_) (fun h => by cases h)
  · simp [EntryOk, blankEntry, isAdmitted, countsLease]
  · rw [hbox n] at hr
    rw [freeEntry_nextItem]
    split at hr <;> exact hs.reply_lt hr
  · rw [hbox n]
    split
    · exact List.filter_sublist
    · exact List.Sublist.refl _
  · rw [hbox n]
    split
    · exact List.mem_filter.mpr ⟨hx, by simpa using hi⟩
    · exact hx
  · rw [hbox n] at hx
    split at hx
    · simp [hi] at hx
    · next hn => exact absurd hof.1.symm hn

theorem isStanding_alive {st : EntryState} (h : isStanding st = true) : st ≠ .free := by
  rintro rfl
  cases h

theorem retireWith_decides {c : Option Cause} {i : Idx} {s : State} (hs : isStanding (s.entry i).state = true)
    (hc : EntryOk (s.entry i) → c.isSome = true) : Decides s (retireWith c i s) :=
  .of_needLost (retireWith_only _ i s) (fun j => retireWith_entry _ i j s) (retireWith_needLost _ i s) rfl rfl
    (fun _ => ⟨isStanding_alive hs, rfl, rfl⟩) (fun _ => hs) (fun h => h.retired (isStanding_alive hs) (hc h))
    (fun _ => ⟨ahead_expiryAfter s _, fun p hp => by cases hp⟩)
    (.of_left (fun j => retireWith_entry _ i j s) (retireWith_waitQueue _ i s) (retireWith_admission _ i s) (by simp) rfl)
    fun hn => hn.of_tells (fun j => retireWith_entry _ i j s) ⟨rfl, rfl, rfl⟩ (retireWith_tells _ i s)
      (retireWith_nextItem _ i s) (fun x hk hl => by simp [noticeFits, hk, hl]) fun _ => rfl

/-! ## Moves of a live entry -/

/-- Both states are of one kind for the lists, the slot and the host: both live, or the same. -/
structure SameKind (a b : EntryState) : Prop where
  need : needsPower b = needsPower a
  admitted : isAdmitted b = isAdmitted a
  waiting : b = .waiting ↔ a = .waiting
  free : b = .free ↔ a = .free
  enabling : b = .enabling ↔ a = .enabling
  standing : isStanding b = isStanding a

theorem SameKind.refl (a : EntryState) : SameKind a a := ⟨rfl, rfl, Iff.rfl, Iff.rfl, Iff.rfl, rfl⟩

theorem SameKind.of_live {a b : EntryState} (ha : isLive a = true) (hb : isLive b = true) : SameKind a b := by
  constructor <;> revert ha hb <;> cases a <;> cases b <;> decide

/-- One entry changes within its kind, slot and class. -/
theorem Decides.of_sameKind {s t : State} {i : Idx} {e : Entry} (only : ContractsOnly s t)
    (h : ∀ j, t.entry j = if j = i then e else s.entry j) (hslots : t.slots = s.slots) (hinrush : t.inrush = s.inrush)
    (hw : t.waitQueue = s.waitQueue) (ha : t.admission = s.admission)
    (hkind : SameKind (s.entry i).state e.state) (hslot : e.slot = (s.entry i).slot) (htag : e.tag = (s.entry i).tag)
    (hcls : e.cls = (s.entry i).cls)
    (entries : EntryOk (s.entry i) → EntryOk e) (ahead : EntryAhead s (s.entry i) → EntryAhead s e)
    (notices : NoticesOk s → NoticesOk t) (covered : EntriesOk s → Covered s → Covered t) : Decides s t :=
  .of_update only h hslots hinrush
    ⟨hkind.need, fun hf => ⟨mt hkind.free.mpr hf, hslot⟩, hkind.enabling.mp, fun hst => hkind.standing ▸ hst⟩ htag entries
    ahead
    (.of_kinds hw ha fun j => by
      rw [h j]
      split
      · next hji => rw [hji]; exact ⟨hkind.waiting, hkind.admitted, hcls⟩
      · exact ⟨Iff.rfl, rfl, rfl⟩)
    notices (fun hadm => .inl (hkind.admitted ▸ hadm)) covered

/-- REDUCING asks for a level from the floor up and below the level held (R69). -/
theorem EntryOk.reducing {e : Entry} (h : EntryOk e) (hs : e.state = .active ∨ e.state = .reduced) {target d : Nat}
    (hfloor : e.floor ≤ target) (hheld : target < e.held) :
    EntryOk { e with state := .reducing, target := some target, deadline := some d } := by
  obtain ⟨-, hlevels, hadm, -, -, -, -, -, hcause, -, hperiod, hlease⟩ := h
  have hfree : e.state ≠ .free := by rcases hs with hs | hs <;> simp [hs]
  have hadmitted : isAdmitted e.state = true := by rcases hs with hs | hs <;> simp [hs, isAdmitted]
  have hcounts : countsLease e.state = true := by rcases hs with hs | hs <;> simp [hs, countsLease]
  have hnone : ¬ e.cause.isSome = true := by
    rw [hcause]
    rcases hs with hs | hs <;> simp [hs]
  rw [hcounts] at hperiod
  exact ⟨by simp, fun _ => hlevels hfree, fun _ => hadm hadmitted, by simp [isAdmitted], by simp, by simp,
    fun _ => ⟨hfloor, hheld⟩, by simp, by simpa using hnone, by simp, hperiod, hlease⟩

theorem reduceEntry_decides {i : Idx} {target : Nat} {s : State}
    (hs : (s.entry i).state = .active ∨ (s.entry i).state = .reduced) (hfloor : (s.entry i).floor ≤ target)
    (hheld : target < (s.entry i).held) : Decides s (reduceEntry i target s) := by
  have hpending : pendingOf (s.entry i) = 0 := by
    unfold pendingOf
    rcases hs with hs | hs <;> rw [hs]
  refine .of_sameKind (reduceEntry_only i target s) (fun j => reduceEntry_entry i j target s) rfl rfl rfl rfl
    (.of_live (by rcases hs with hs | hs <;> rw [hs] <;> rfl) rfl) rfl rfl rfl (fun h => h.reducing hs hfloor hheld)
    (.of_timers (ahead_expiryAfter s _) (.inr ⟨rfl, rfl⟩))
    (fun hn => hn.of_tells (fun j => reduceEntry_entry i j target s) ⟨rfl, rfl, rfl⟩ (reduceEntry_tells i target s) rfl
      (fun x hk hl => by simp [noticeFits, hk, hl]) fun h => by cases h)
    fun _ => .of_update rfl (fun j => reduceEntry_entry i j target s) ?_
  rw [hpending]
  exact Nat.le_add_right _ _

theorem EntryOk.revoking {e : Entry} (h : EntryOk e) (hs : isLive e.state = true) {c : Cause} {d : Nat} :
    EntryOk { e with state := .revoking, cause := some c, target := none, period := none, deadline := some d } := by
  obtain ⟨-, hlevels, hadm, -, -, -, -, -, -, -, -, hlease⟩ := h
  have hadmitted : isAdmitted e.state = true := by
    revert hs
    cases e.state <;> simp [isLive, isAdmitted]
  exact ⟨by simp, fun _ => hlevels (isLive_ne_free hs), fun _ => hadm hadmitted, by simp [isAdmitted], by simp, by simp,
    by simp, by simp, by simp, by simp, by simp [countsLease], hlease⟩

theorem revokeEntry_decides {c : Cause} {i : Idx} {s : State} (hs : isLive (s.entry i).state = true) :
    Decides s (revokeEntry c i s) := by
  refine .of_sameKind (revokeEntry_only c i s) (fun j => revokeEntry_entry c i j s) rfl rfl rfl rfl (.of_live hs rfl) rfl rfl
    rfl (fun h => h.revoking hs) (.of_timers (ahead_expiryAfter s _) (.inl rfl))
    (fun hn => hn.of_tells (fun j => revokeEntry_entry c i j s) ⟨rfl, rfl, rfl⟩ (revokeEntry_tells c i s) rfl
      (fun x hk hl => by simp [noticeFits, hk, hl]) fun h => by cases h)
    fun _ => .of_update rfl (fun j => revokeEntry_entry c i j s) ?_
  have hpending := pendingOf_le (s.entry i)
  show (s.entry i).held + pendingOf (s.entry i) ≤ (s.entry i).held + (s.entry i).held
  omega

/-! ## Recall (R10, R33) -/

theorem EntryOk.recalled {e : Entry} (h : EntryOk e) (hs : e.state = .offered ∨ e.state = .enabling) :
    EntryOk { e with state := .waiting, held := 0, period := none, deadline := none } := by
  obtain ⟨-, hlevels, -, -, -, -, -, htarget, hcause, -, -, hlease⟩ := h
  have hfree : e.state ≠ .free := by rcases hs with hs | hs <;> simp [hs]
  have hnoTarget : ¬ e.target.isSome = true := by
    rw [htarget]
    rcases hs with hs | hs <;> simp [hs]
  have hnoCause : ¬ e.cause.isSome = true := by
    rw [hcause]
    rcases hs with hs | hs <;> simp [hs]
  exact ⟨by simp, fun _ => hlevels hfree, by simp [isAdmitted], by simp, by simp, by simp, by simp, by simpa using hnoTarget,
    by simpa using hnoCause, by simp, by simp [countsLease], hlease⟩

/-- Of an OFFERED entry no notice but its OFFER can be pending (R106). -/
theorem noticeFits_offered {e : Entry} {x : Notice} (hs : e.state = .offered) (h : noticeFits e x) : x.kind = .offer := by
  cases hk : x.kind <;> simp [noticeFits, hk, hs, countsLease] at h ⊢

theorem recallEntry_lists {i : Idx} {s : State} (hs : (s.entry i).state ≠ .waiting) (h : ListsOk s) :
    ListsOk (recallEntry i s) := by
  have hi := h.not_mem_waitQueue hs
  refine h.of_joined (fun j => recallEntry_entry i j s) (filter_ne_of_not_mem hi).symm
    (by rw [recallEntry_waitQueue, returnToWaiting_waitQueue hi]) (recallEntry_admission i s) rfl (fun j hj => ?_)
    (dropWhile_cls_le _ h.2.2.2.2)
  have hlt := List.mem_takeWhile_imp hj
  exact (of_decide_eq_true hlt).le

theorem recallEntry_nextItem (i : Idx) (s : State) :
    (recallEntry i s).nextItem = if offerUntold s i then s.nextItem else s.nextItem + 1 := by
  rw [recallEntry_eq, tellNeed_nextItem, recalledNotices]
  split <;> rfl

theorem recallEntry_notices {i : Idx} {s : State} (h : NoticesOk s) : NoticesOk (recallEntry i s) := by
  by_cases hu : offerUntold s i = true
  case neg =>
    exact h.of_tells (fun j => recallEntry_entry i j s) ⟨rfl, rfl, rfl⟩ (recallEntry_tells hu)
      (by rw [recallEntry_nextItem, if_neg hu]) (fun x hk hl => by simp [noticeFits, hk, hl]) fun hst => by cases hst
  have hoffered := ((offerUntold_iff s i).mp hu).1
  have hnext : (recallEntry i s).nextItem = s.nextItem := by rw [recallEntry_nextItem, if_pos hu]
  have hbox (n : Slot) : ((recallEntry i s).outbox n).reply = (s.outbox n).reply
      ∧ ((recallEntry i s).outbox n).notices = if n = (s.entry i).slot
          then (s.outbox n).notices.filter (fun x => !(x.index == i && x.kind == .offer)) else (s.outbox n).notices := by
    rw [recallEntry_untold hu, removeNotice, keepNotices_outbox]
    split
    · next hn => rw [hn]; exact ⟨rfl, rfl⟩
    · exact ⟨rfl, rfl⟩
  refine h.of_update (fun j => recallEntry_entry i j s) hnext.ge (fun n r hr => ?_) (fun n => ?_) (fun n x hx hi => ?_)
    (fun n x hx hi hof => ?_) (fun hst => by cases hst)
  · rw [(hbox n).1] at hr
    rw [hnext]
    exact h.reply_lt hr
  · rw [(hbox n).2]
    split
    · exact List.filter_sublist
    · exact List.Sublist.refl _
  · rw [(hbox n).2]
    split
    · exact List.mem_filter.mpr ⟨hx, by simp [hi]⟩
    · exact hx
  · rw [(hbox n).2, if_pos hof.1.symm] at hx
    simp [hi, noticeFits_offered hoffered hof.2.2.2] at hx

theorem recallEntry_decides {i : Idx} {s : State} (hs : (s.entry i).state = .offered ∨ (s.entry i).state = .enabling) :
    Decides s (recallEntry i s) := by
  have hfree : (s.entry i).state ≠ .free := by rcases hs with hs | hs <;> simp [hs]
  have hstanding : isStanding (s.entry i).state = true := by rcases hs with hs | hs <;> simp [hs, isStanding]
  have hwait : (s.entry i).state ≠ .waiting := by rcases hs with hs | hs <;> simp [hs]
  exact .of_needLost (recallEntry_only i s) (fun j => recallEntry_entry i j s) (recallEntry_needLost i s) rfl rfl
    (fun _ => ⟨hfree, rfl, rfl⟩) (fun _ => hstanding) (fun h => h.recalled hs)
    (.of_timers (ahead_none s) (.inl rfl)) (recallEntry_lists hwait) recallEntry_notices

end Sys2Proof.Machine
end

section
/-! PROOFS. The Budget Account (chapters 2 and 3): what rebalance keeps, and what it leaves of the headroom (O48). -/

namespace Sys2Proof.Machine

/-! ## A raised level (R56, R57) -/

/-- An entry raised within the headroom. -/
theorem heldTotal_raised {s t : State} {i : Idx} {e : Entry} (hc : t.capacity = s.capacity)
    (h : ∀ j, t.entry j = if j = i then e else s.entry j) (he : e.held ≤ (s.entry i).held + headroom s)
    (hs : heldTotal s ≤ s.capacity) : heldTotal t ≤ t.capacity := by
  have hheld := heldTotal_change (s := s) (t := t) i fun j hj => by rw [h j, if_neg hj]
  rw [h i, if_pos rfl] at hheld
  unfold headroom at he
  omega

theorem covered_of_le {s : State} (h : heldTotal s ≤ s.capacity) : Covered s := h.trans (Nat.le_add_left _ _)

theorem restoreEntry_kept {s : State} {i : Idx} (h1 : (s.entry i).state ≠ .reduced) (h2 : (s.entry i).state ≠ .enabling) :
    restoreEntry s i = s := by
  unfold restoreEntry
  split
  · rfl
  · cases h : (s.entry i).state <;> simp_all

/-- The level a restoration raises an entry to (R56). -/
def restoredLevel (s : State) (e : Entry) : Nat := min e.requested (e.held + headroom s)

/-- A REDUCED entry raised (R57). -/
def restoredEntry (e : Entry) (level : Nat) : Entry :=
  { e with held := level, state := if level = e.requested then .active else .reduced }

theorem restoreEntry_entry {s : State} {i : Idx} (h : headroom s ≠ 0) (hst : (s.entry i).state = .reduced) (j : Idx) :
    (restoreEntry s i).entry j = if j = i then restoredEntry (s.entry i) (restoredLevel s (s.entry i)) else s.entry j := by
  rw [restoreEntry_reduced h hst]
  exact entry_setEntry ..

theorem restoredEntry_live (e : Entry) (level : Nat) : isLive (restoredEntry e level).state = true := by
  unfold restoredEntry
  split <;> rfl

theorem EntryOk.restored {e : Entry} (h : EntryOk e) (hs : e.state = .reduced) {level : Nat} (hlow : e.held ≤ level)
    (hhigh : level ≤ e.requested) : EntryOk (restoredEntry e level) := by
  obtain ⟨-, hlevels, hadm, -, -, -, -, htarget, hcause, hdeadline, hperiod, hlease⟩ := h
  have hfloor := (hadm (by rw [hs]; rfl)).1
  by_cases hl : level = e.requested
  · simp_all [EntryOk, restoredEntry, isAdmitted, countsLease]
  · have hlt : level < e.requested := lt_of_le_of_ne hhigh hl
    simp_all [EntryOk, restoredEntry, isAdmitted, countsLease]
    omega

/-- An ENABLING entry raised within its requested level (R56). -/
theorem EntryOk.raised {e : Entry} (h : EntryOk e) (hs : e.state = .enabling) {level : Nat} (hlow : e.held ≤ level)
    (hhigh : level ≤ e.requested) : EntryOk { e with held := level } := by
  obtain ⟨-, hlevels, hadm, -, -, -, -, htarget, hcause, hdeadline, hperiod, hlease⟩ := h
  have hfloor := (hadm (by rw [hs]; rfl)).1
  simp_all [EntryOk, isAdmitted, countsLease]
  omega

/-- Of an ENABLING entry no notice but a LEASE_WARN can be pending, and it does not depend on the level held (R106). -/
theorem noticeFits_enabling {e : Entry} {x : Notice} {level : Nat} (hs : e.state = .enabling) (h : noticeFits e x) :
    noticeFits { e with held := level } x := by
  cases hk : x.kind <;> simp_all [noticeFits]

/-- A notice queued for an entry of which the outboxes know nothing new (R102). -/
theorem queueNotice_tells {s u : State} {k : NoticeKind} {i : Idx} {level : Nat} (hbox : u.outboxes = s.outboxes)
    (hnext : u.nextItem = s.nextItem) (hslot : (u.entry i).slot = (s.entry i).slot) (hgen : (u.entry i).gen = (s.entry i).gen)
    (htag : (u.entry i).tag = (s.entry i).tag) : Tells s (queueNotice k i level u) k i level := by
  intro m
  rw [queueNotice_outbox, hslot, hgen, htag, hnext, outbox_of_outboxes hbox]

theorem restoreEntry_decides (s : State) (i : Idx) : Decides s (restoreEntry s i) := by
  by_cases hroom : headroom s = 0
  · rw [restoreEntry_spent hroom]
    exact .refl s
  have hcovered := covered_of_headroom hroom
  have hlow (he : EntryOk (s.entry i)) (hadm : isAdmitted (s.entry i).state = true) :
      (s.entry i).held ≤ restoredLevel s (s.entry i) := by
    have hlevels := (he.2.2.1 hadm).2
    unfold restoredLevel
    omega
  cases hst : (s.entry i).state
  case reduced =>
    have hentry := restoreEntry_entry hroom hst
    have hslots : (restoreEntry s i).slots = s.slots ∧ (restoreEntry s i).inrush = s.inrush
        ∧ (restoreEntry s i).waitQueue = s.waitQueue ∧ (restoreEntry s i).admission = s.admission
        ∧ (restoreEntry s i).nextItem = s.nextItem + 1 := by
      rw [restoreEntry_reduced hroom hst]
      exact ⟨rfl, rfl, rfl, rfl, rfl⟩
    obtain ⟨hslots, hinrush, hw, ha, hnext⟩ := hslots
    have hcase : (restoredEntry (s.entry i) (restoredLevel s (s.entry i))).state = .active
        ∨ (restoredEntry (s.entry i) (restoredLevel s (s.entry i))).state = .reduced := by
      unfold restoredEntry
      split
      · exact .inl rfl
      · exact .inr rfl
    have htells : Tells s (restoreEntry s i) .restore i (restoredLevel s (s.entry i)) := by
      rw [restoreEntry_reduced hroom hst]
      refine queueNotice_tells rfl rfl ?_ ?_ ?_ <;> rw [entry_setEntry_same]
    refine .of_sameKind (restoreEntry_only s i) hentry hslots hinrush hw ha
      (.of_live (by rw [hst]; rfl) (restoredEntry_live ..)) rfl rfl rfl
      (fun he => he.restored hst (hlow he (by rw [hst]; rfl)) (Nat.min_le_left ..)) (fun h => h)
      (fun hn => hn.of_tells hentry ⟨rfl, rfl, rfl⟩ htells hnext (fun x hk hl => ?_) fun hret => ?_)
      fun _ _ => covered_of_le (heldTotal_raised (restoreEntry_only s i).capacity hentry (Nat.min_le_right ..) hcovered)
    · simpa [noticeFits, hk] using ⟨hcase, hl⟩
    · rcases hcase with h | h <;> rw [h] at hret <;> cases hret
  case enabling =>
    have hequal := restoreEntry_enabling hroom hst
    have hentry (j : Idx) : (restoreEntry s i).entry j
        = if j = i then { s.entry i with held := restoredLevel s (s.entry i) } else s.entry j := by
      rw [hequal]
      exact entry_setEntry ..
    refine .of_sameKind (restoreEntry_only s i) hentry (by rw [hequal]; rfl) (by rw [hequal]; rfl) (by rw [hequal]; rfl)
      (by rw [hequal]; rfl) (.refl _) rfl rfl rfl
      (fun he => he.raised hst (hlow he (by rw [hst]; rfl)) (Nat.min_le_left ..)) (fun h => h)
      (fun hn => hn.of_update hentry (by rw [hequal]; exact Nat.le_refl _) (fun n r hr => ?_) (fun n => ?_) (fun n x hx _ => ?_)
        (fun n x _ _ hof => ⟨hof.1, hof.2.1, hof.2.2.1, noticeFits_enabling hst hof.2.2.2⟩) fun hret => ?_)
      fun _ _ => covered_of_le (heldTotal_raised (restoreEntry_only s i).capacity hentry (Nat.min_le_right ..) hcovered)
    · rw [hequal] at hr ⊢
      exact hn.reply_lt hr
    · rw [hequal]
      exact List.Sublist.refl _
    · rw [hequal]
      exact hx
    · exact absurd (hst.symm.trans hret) (by decide)
  all_goals
    rw [restoreEntry_kept (by simp [hst]) (by simp [hst])]
    exact .refl s

/-! ## An offer (R37) -/

theorem EntryOk.offered {e : Entry} (h : EntryOk e) (hs : e.state = .waiting) {level d : Nat} (hlow : e.floor ≤ level)
    (hhigh : level ≤ e.requested) : EntryOk { e with state := .offered, held := level, deadline := some d } := by
  obtain ⟨-, hlevels, -, -, -, -, -, htarget, hcause, -, hperiod, hlease⟩ := h
  simp_all [EntryOk, isAdmitted, countsLease]

/-- The offer of the level that headroom allows, and its notice (R36, R37). -/
def offerNext (i : Idx) (s : State) : State :=
  queueNotice .offer i (min (s.entry i).requested (headroom s)) (offerEntry i (min (s.entry i).requested (headroom s)) s)

theorem offerNext_entry (i j : Idx) (s : State) :
    (offerNext i s).entry j = if j = i then { s.entry i with state := .offered, held := min (s.entry i).requested (headroom s)
                                                             deadline := some (expiryAfter s (duration s .offerw)) }
      else s.entry j := offerEntry_entry ..

theorem offerNext_only (i : Idx) (s : State) : ContractsOnly s (offerNext i s) :=
  (offerEntry_only i _ s).trans (queueNotice_only ..)

theorem offerNext_decides {i : Idx} {s : State} (hs : (s.entry i).state = .waiting)
    (hroom : (s.entry i).floor ≤ headroom s) (hop : s.supply = .operating) : Decides s (offerNext i s) := by
  have hentry (j : Idx) := offerNext_entry i j s
  refine .of_update (offerNext_only i s) hentry rfl rfl
    ⟨by rw [hs]; rfl, fun _ => ⟨by simp [hs], rfl⟩, fun h => (by cases h), fun _ => by rw [hs]; rfl⟩ rfl
    (fun he => he.offered hs (by have hlevels := he.2.1 (by simp [hs]); omega) (Nat.min_le_left ..))
    (.of_timers (ahead_expiryAfter s _) (.inr ⟨rfl, rfl⟩)) (.of_admitted hentry rfl rfl rfl)
    (fun hn => hn.of_tells hentry ⟨rfl, rfl, rfl⟩ (queueNotice_tells rfl rfl ?_ ?_ ?_) rfl
      (fun x hk hl => by simp [noticeFits, hk, hl]) fun hret => by cases hret)
    (fun _ => .inr hop) fun he _ => ?_
  · rw [offerEntry_entry, if_pos rfl]
  · rw [offerEntry_entry, if_pos rfl]
  · rw [offerEntry_entry, if_pos rfl]
  · obtain ⟨-, hlevels, -⟩ := he i
    have hfloor := (hlevels (by simp [hs])).1
    refine covered_of_le (heldTotal_raised (s := s) (t := offerNext i s) rfl hentry ?_ (covered_of_headroom (by omega)))
    exact (Nat.min_le_right ..).trans (Nat.le_add_left ..)

theorem admitFrom_decides {l : List Idx} (hn : l.Nodup) {s : State} (hl : ∀ i ∈ l, (s.entry i).state = .waiting)
    (hop : s.supply = .operating) : Decides s (admitFrom l s) := by
  induction l generalizing s with
  | nil => exact .refl s
  | cons i rest ih =>
    obtain ⟨hi, hrest⟩ := List.nodup_cons.mp hn
    rcases Nat.lt_or_ge (headroom s) (s.entry i).floor with hstop | hroom
    · rw [admitFrom_stops hstop]
      exact .refl s
    · rw [admitFrom_offers hroom]
      refine (offerNext_decides (hl i List.mem_cons_self) hroom hop).trans (ih hrest (fun j hj => ?_) hop)
      have hne : j ≠ i := fun h => hi (h ▸ hj)
      show ((offerNext i s).entry j).state = .waiting
      rw [offerNext_entry, if_neg hne]
      exact hl j (List.mem_cons_of_mem _ hj)

theorem restoration_decides (s : State) : Decides s (restoration s) := .foldl _ restoreEntry_decides _ s

theorem spendHeadroom_decides {s : State} (hop : s.supply = .operating) (hl : ListsOk s) : Decides s (spendHeadroom s) := by
  have hrestored := restoration_decides s
  obtain ⟨hwn, -, hwait, -⟩ := hrestored.lists hl
  exact hrestored.trans (admitFrom_decides hwn (fun i hi => (hwait i).mp hi) (hrestored.only.supply.trans hop))

theorem rebalance_decides {s : State} (hl : ListsOk s) : Decides s (rebalance s) := by
  refine .ite (fun h => spendHeadroom_decides ?_ hl) fun _ => .refl s
  simpa using (Bool.and_eq_true_iff.mp h).1

/-! ## What rebalance leaves (R55 to R58; O48) -/

/-- A candidate either is raised to its requested level or takes what headroom there is (R56, R57). -/
theorem restoreEntry_raises (s : State) (i : Idx) :
    headroom (restoreEntry s i) = 0 ∨ isShort ((restoreEntry s i).entry i) = false := by
  by_cases hroom : headroom s = 0
  · exact .inl (by rw [restoreEntry_spent hroom]; exact hroom)
  have htakes (e : Entry) (h : ∀ j, (restoreEntry s i).entry j = if j = i then e else s.entry j)
      (hlevel : e.held = restoredLevel s (s.entry i)) (hlt : e.held < (s.entry i).requested) : headroom (restoreEntry s i) = 0 := by
    have hheld := heldTotal_change (s := s) (t := restoreEntry s i) i fun j hj => by rw [h j, if_neg hj]
    rw [h i, if_pos rfl] at hheld
    unfold restoredLevel headroom at *
    rw [(restoreEntry_only s i).capacity]
    omega
  have hshort (h : ¬ isShort ((restoreEntry s i).entry i) = true) := Bool.eq_false_iff.mpr h
  cases hst : (s.entry i).state
  case reduced =>
    have hentry := restoreEntry_entry hroom hst
    by_cases hfull : restoredLevel s (s.entry i) = (s.entry i).requested
    · refine .inr (hshort ?_)
      rw [hentry i, if_pos rfl, isShort_iff]
      simp [restoredEntry, hfull]
    · refine .inl (htakes _ hentry rfl ?_)
      exact lt_of_le_of_ne (Nat.min_le_left ..) hfull
  case enabling =>
    have hentry (j : Idx) : (restoreEntry s i).entry j
        = if j = i then { s.entry i with held := restoredLevel s (s.entry i) } else s.entry j := by
      rw [restoreEntry_enabling hroom hst]
      exact entry_setEntry ..
    by_cases hfull : restoredLevel s (s.entry i) = (s.entry i).requested
    · refine .inr (hshort ?_)
      rw [hentry i, if_pos rfl, isShort_iff]
      simp [hst, hfull]
    · refine .inl (htakes _ hentry rfl ?_)
      exact lt_of_le_of_ne (Nat.min_le_left ..) hfull
  all_goals
    refine .inr (hshort ?_)
    rw [restoreEntry_kept (by simp [hst]) (by simp [hst]), isShort_iff]
    simp [hst]

theorem restoreEntry_other {s : State} {i j : Idx} (h : j ≠ i) : (restoreEntry s i).entry j = s.entry j := by
  by_cases hroom : headroom s = 0
  · rw [restoreEntry_spent hroom]
  cases hst : (s.entry i).state
  case reduced => rw [restoreEntry_entry hroom hst, if_neg h]
  case enabling =>
    rw [restoreEntry_enabling hroom hst]
    exact entry_setEntry_ne _ _ h
  all_goals rw [restoreEntry_kept (by simp [hst]) (by simp [hst])]

theorem foldl_restoreEntry_spent (l : List Idx) {s : State} (h : headroom s = 0) : l.foldl restoreEntry s = s := by
  induction l with
  | nil => rfl
  | cons i l ih => rw [List.foldl_cons, restoreEntry_spent h, ih]

theorem foldl_restoreEntry_other {l : List Idx} {j : Idx} (h : j ∉ l) (s : State) :
    (l.foldl restoreEntry s).entry j = s.entry j := by
  induction l generalizing s with
  | nil => rfl
  | cons i l ih =>
    have hi : j ≠ i := fun hji => h (hji ▸ List.mem_cons_self)
    rw [List.foldl_cons, ih fun hj => h (List.mem_cons_of_mem _ hj), restoreEntry_other hi]

theorem foldl_restoreEntry_raises {l : List Idx} (hn : l.Nodup) (s : State) :
    headroom (l.foldl restoreEntry s) = 0 ∨ ∀ i ∈ l, isShort ((l.foldl restoreEntry s).entry i) = false := by
  induction l generalizing s with
  | nil => exact .inr fun i hi => by cases hi
  | cons i l ih =>
    obtain ⟨hi, hl⟩ := List.nodup_cons.mp hn
    rw [List.foldl_cons]
    rcases restoreEntry_raises s i with hspent | hself
    · rw [foldl_restoreEntry_spent l hspent]
      exact .inl hspent
    · refine (ih hl _).imp_right fun hrest j hj => ?_
      rcases List.mem_cons.mp hj with rfl | hj
      · rw [foldl_restoreEntry_other hi]
        exact hself
      · exact hrest j hj

theorem nodup_restoreOrder {s : State} (hn : s.admission.Nodup) : (restoreOrder s).Nodup :=
  (pairwise_restoreOrder hn).imp fun h hij => by
    subst hij
    rcases h with h | ⟨-, h⟩
    · exact lt_irrefl _ h
    · exact Nat.lt_irrefl _ h

theorem isShort_admitted {e : Entry} (h : isShort e = true) : isAdmitted e.state = true := by
  rcases (isShort_iff e).mp h with h | ⟨h, -⟩ <;> rw [h] <;> rfl

/-- After the restoration step either no candidate is left or no headroom is (R56). -/
theorem restoration_raises {s : State} (hl : ListsOk s) :
    headroom (restoration s) = 0 ∨ ∀ i : Idx, isShort ((restoration s).entry i) = false := by
  obtain ⟨-, han, -, hadm, -⟩ := hl
  refine (foldl_restoreEntry_raises (nodup_restoreOrder han) s).imp_right fun h i => ?_
  by_cases hi : i ∈ restoreOrder s
  · exact h i hi
  · rw [restoration, foldl_restoreEntry_other hi]
    refine Bool.eq_false_iff.mpr fun hshort => hi ?_
    exact (mem_restoreOrder s i).mpr ⟨(hadm i).mpr (isShort_admitted hshort), hshort⟩

theorem admitFrom_short (l : List Idx) {s : State} (h : ∀ i : Idx, isShort (s.entry i) = false) (i : Idx) :
    isShort ((admitFrom l s).entry i) = false := by
  induction l generalizing s with
  | nil => exact h i
  | cons j rest ih =>
    rcases Nat.lt_or_ge (headroom s) (s.entry j).floor with hstop | hroom
    · rw [admitFrom_stops hstop]
      exact h i
    · rw [admitFrom_offers hroom]
      refine ih fun k => ?_
      show isShort ((offerNext j s).entry k) = false
      rw [offerNext_entry]
      split
      · rfl
      · exact h k

/-- The admission step ends with the queue empty or with a head that headroom does not allow (R36, R37). -/
theorem admitFrom_head {l : List Idx} {s : State} (hn : l.Nodup) (hq : s.waitQueue = l) (i : Idx) (rest : List Idx)
    (h : (admitFrom l s).waitQueue = i :: rest) : headroom (admitFrom l s) < ((admitFrom l s).entry i).floor := by
  induction l generalizing s with
  | nil =>
    rw [admitFrom, hq] at h
    cases h
  | cons j l ih =>
    obtain ⟨hj, hl⟩ := List.nodup_cons.mp hn
    rcases Nat.lt_or_ge (headroom s) (s.entry j).floor with hstop | hroom
    · rw [admitFrom_stops hstop] at h ⊢
      rw [hq] at h
      obtain ⟨rfl, -⟩ := List.cons.inj h
      exact hstop
    · rw [admitFrom_offers hroom] at h ⊢
      refine ih (s := offerNext j s) hl ?_ h
      show s.waitQueue.filter (· != j) = l
      rw [hq, List.filter_cons_of_neg (by simp)]
      exact filter_ne_of_not_mem hj

theorem mayRebalance_iff (s : State) : mayRebalance s = true ↔ s.supply = .operating ∧ heldTotal s < s.capacity := by
  simp [mayRebalance]

/-- Settles O48: restoration ends with the headroom or the candidates, admission with a head the headroom does not allow. -/
theorem rebalanceSpendsHeadroom : Obligations.RebalanceSpendsHeadroom := by
  refine fun s => ⟨fun h => if_neg fun hmay => ?_, fun hop hlt => ?_⟩
  · obtain ⟨hop, hlt⟩ := (mayRebalance_iff s).mp hmay
    rcases h with h | h
    · exact h hop
    · omega
  have hspend : rebalance s = admitFrom (restoration s).waitQueue (restoration s) :=
    if_pos ((mayRebalance_iff s).mpr ⟨hop, hlt⟩)
  refine ⟨hspend, fun he hl => ⟨(rebalance_spends s).covered hlt.le, ?_, fun i rest hq => ?_⟩⟩
  · rw [hspend]
    rcases restoration_raises hl with hspent | hnone
    · left
      cases hq : (restoration s).waitQueue with
      | nil => exact hspent
      | cons i rest =>
        have hwaits := (((restoration_decides s).lists hl).2.2.1 i).mp (hq ▸ List.mem_cons_self)
        have hfloor := (((restoration_decides s).entries he i).2.1 (by simp [hwaits])).1
        rw [admitFrom_stops (by omega)]
        exact hspent
    · exact .inr (admitFrom_short _ hnone)
  · rw [hspend] at hq ⊢
    exact admitFrom_head ((restoration_decides s).lists hl).1 rfl i rest hq

end Sys2Proof.Machine
end

section
/-! PROOFS. The shed plan (chapter 4): the order of its candidates (O50), the excess it covers (O49), and what it keeps. -/

namespace Sys2Proof.Machine

/-! ## Candidates (R63, R64, R66, R67) -/

/-- Before in the shed plan: of a lower class, or of the same class and admitted later. -/
def ShedsBefore (s : State) (i j : Idx) : Prop :=
  (s.entry i).cls < (s.entry j).cls
  ∨ (s.entry i).cls = (s.entry j).cls ∧ positionIn s.admission j < positionIn s.admission i

theorem pairwise_nodup {s : State} {l : List Idx} (h : l.Pairwise (ShedsBefore s)) : l.Nodup :=
  h.imp fun h hij => by
    subst hij
    rcases h with h | ⟨-, h⟩
    · exact lt_irrefl _ h
    · exact Nat.lt_irrefl _ h

theorem pairwise_newest {s : State} (hn : s.admission.Nodup) :
    s.admission.reverse.Pairwise fun i j => positionIn s.admission j < positionIn s.admission i :=
  List.pairwise_reverse.mpr (pairwise_positionIn hn)

theorem pairwise_newestFirst {s : State} (hn : s.admission.Nodup) (c : Sys2Proof.Class) (p : Entry → Bool) :
    (newestFirst s c p).Pairwise (ShedsBefore s) := by
  refine ((pairwise_newest hn).filter _).imp_of_mem fun {i j} hi hj hij => .inr ⟨?_, hij⟩
  have hcls {k : Idx} (hk : k ∈ newestFirst s c p) : (s.entry k).cls = c := by
    simpa using (Bool.and_eq_true_iff.mp (List.mem_filter.mp hk).2).1
  rw [hcls hi, hcls hj]

theorem mem_newestFirst (s : State) (c : Sys2Proof.Class) (p : Entry → Bool) (i : Idx) :
    i ∈ newestFirst s c p ↔ i ∈ s.admission ∧ (s.entry i).cls = c ∧ p (s.entry i) = true := by
  simp [newestFirst]

/-- The candidates of step A (R64). -/
def recallOrder (s : State) : List Idx := classesUp.flatMap fun c => newestFirst s c isRecallable

theorem pairwise_recallOrder {s : State} (hn : s.admission.Nodup) : (recallOrder s).Pairwise (ShedsBefore s) := by
  have h := pairwise_byClass (by decide : classesUp.Pairwise fun c d => c < d) (fun i => (s.entry i).cls)
    (fun i => isRecallable (s.entry i)) (pairwise_newest hn)
  have hequal : recallOrder s
      = classesUp.flatMap fun c => s.admission.reverse.filter fun i => isRecallable (s.entry i) && (s.entry i).cls == c := by
    simp only [recallOrder, newestFirst, Bool.and_comm]
  rw [hequal]
  exact h

theorem mem_recallOrder (s : State) (i : Idx) : i ∈ recallOrder s ↔ i ∈ s.admission ∧ isRecallable (s.entry i) = true := by
  have hc (c : Sys2Proof.Class) : c ∈ classesUp := by revert c; decide
  simp only [recallOrder, List.mem_flatMap, mem_newestFirst]
  exact ⟨fun ⟨_, _, hm, _, hp⟩ => ⟨hm, hp⟩, fun ⟨hm, hp⟩ => ⟨_, hc _, hm, rfl, hp⟩⟩

theorem isRecallable_iff (e : Entry) : isRecallable e = true ↔ e.state = .offered ∨ e.state = .enabling := by
  simp [isRecallable]

theorem isReducible_iff (e : Entry) :
    isReducible e = true ↔ (e.state = .active ∨ e.state = .reduced) ∧ e.floor < e.held := by
  simp [isReducible]

theorem isRevocable_iff (e : Entry) :
    isRevocable e = true ↔ e.state = .active ∨ e.state = .reduced ∨ e.state = .reducing := by
  simp [isRevocable, or_assoc]

/-! ## Walking candidates while the excess lasts (R63) -/

theorem whileExcess_acts (act : Idx → State → State) (i : Idx) (l : List Idx) {s : State} (h : excess s ≠ 0) :
    whileExcess act (i :: l) s = whileExcess act l (act i s) := by
  rw [whileExcess_cons, if_neg h]

theorem whileExcess_stops (act : Idx → State → State) (i : Idx) (l : List Idx) {s : State} (h : excess s = 0) :
    whileExcess act (i :: l) s = s := whileExcess_done act (i :: l) h

section
variable {act : Idx → State → State} (hother : ∀ i s j, j ≠ i → (act i s).entry j = s.entry j)
include hother

theorem whileExcess_other {l : List Idx} {j : Idx} (h : j ∉ l) (s : State) : (whileExcess act l s).entry j = s.entry j := by
  induction l generalizing s with
  | nil => rfl
  | cons i l ih =>
    by_cases hspent : excess s = 0
    · rw [whileExcess_stops act i l hspent]
    · have hi : j ≠ i := fun hji => h (hji ▸ List.mem_cons_self)
      rw [whileExcess_acts act i l hspent, ih fun hj => h (List.mem_cons_of_mem _ hj), hother i s j hi]

/-- A relation that every act on a candidate keeps, whatever happened to the other candidates before it. -/
theorem whileExcess_rel {R : State → State → Prop} (hrefl : ∀ s, R s s) (htrans : ∀ {s t u}, R s t → R t u → R s u)
    {p : Entry → Bool} (hact : ∀ i s, p (s.entry i) = true → excess s ≠ 0 → R s (act i s)) {l : List Idx} (hn : l.Nodup)
    (s : State) (hl : ∀ i ∈ l, p (s.entry i) = true) : R s (whileExcess act l s) := by
  induction l generalizing s with
  | nil => exact hrefl s
  | cons i l ih =>
    obtain ⟨hi, hn⟩ := List.nodup_cons.mp hn
    by_cases hspent : excess s = 0
    · rw [whileExcess_stops act i l hspent]
      exact hrefl s
    · rw [whileExcess_acts act i l hspent]
      refine htrans (hact i s (hl i List.mem_cons_self) hspent) (ih hn _ fun j hj => ?_)
      rw [hother i s j fun hji => hi (hji ▸ hj)]
      exact hl j (List.mem_cons_of_mem _ hj)

/-- If an excess is left, every candidate has been acted on. -/
theorem whileExcess_all {q : Entry → Prop} {p : Entry → Bool} (hact : ∀ i s, p (s.entry i) = true → q ((act i s).entry i))
    {l : List Idx} (hn : l.Nodup) (s : State) (hl : ∀ i ∈ l, p (s.entry i) = true) (hleft : excess (whileExcess act l s) ≠ 0) :
    ∀ i ∈ l, q ((whileExcess act l s).entry i) := by
  induction l generalizing s with
  | nil => exact fun i hi => by cases hi
  | cons i l ih =>
    obtain ⟨hi, hn⟩ := List.nodup_cons.mp hn
    by_cases hspent : excess s = 0
    · rw [whileExcess_stops act i l hspent] at hleft
      exact absurd hspent hleft
    rw [whileExcess_acts act i l hspent] at hleft ⊢
    have hrest (j : Idx) (hj : j ∈ l) : p ((act i s).entry j) = true := by
      rw [hother i s j fun hji => hi (hji ▸ hj)]
      exact hl j (List.mem_cons_of_mem _ hj)
    intro j hj
    rcases List.mem_cons.mp hj with rfl | hj
    · rw [whileExcess_other hother hi]
      exact hact j s (hl j List.mem_cons_self)
    · exact ih hn _ hrest hleft j hj

end

/-! ## The acts -/

theorem recallEntry_other (i : Idx) (s : State) (j : Idx) (h : j ≠ i) : (recallEntry i s).entry j = s.entry j := by
  rw [recallEntry_entry, if_neg h]

theorem shedReduceOne_entry (i j : Idx) (s : State) :
    (shedReduceOne i s).entry j = if j = i then
        { s.entry i with state := .reducing, target := some (max (s.entry i).floor ((s.entry i).held - excess s))
                         deadline := some (expiryAfter s (duration s .redgrace)) } else s.entry j := reduceEntry_entry ..

theorem shedReduceOne_other (i : Idx) (s : State) (j : Idx) (h : j ≠ i) : (shedReduceOne i s).entry j = s.entry j := by
  rw [shedReduceOne_entry, if_neg h]

theorem revokeEntry_other (c : Cause) (i : Idx) (s : State) (j : Idx) (h : j ≠ i) :
    (revokeEntry c i s).entry j = s.entry j := by
  rw [revokeEntry_entry, if_neg h]

/-- A step of the shed plan: a decision on contracts that moves no entry to another class, recalls it to WAITING or keeps its
level, and makes no entry recallable. -/
structure Sheds (s t : State) : Prop where
  decides : Decides s t
  cls : ∀ i, (t.entry i).cls = (s.entry i).cls
  held : ∀ i, (t.entry i).held = (s.entry i).held ∧ ((s.entry i).state = .waiting → (t.entry i).state = .waiting)
    ∨ (t.entry i).held = 0 ∧ (t.entry i).state = .waiting
  recallable : ∀ i, isRecallable (t.entry i) = true → isRecallable (s.entry i) = true

theorem Sheds.refl (s : State) : Sheds s s := ⟨.refl s, fun _ => rfl, fun _ => .inl ⟨rfl, id⟩, fun _ => id⟩

theorem Sheds.trans {s t u : State} (h : Sheds s t) (k : Sheds t u) : Sheds s u where
  decides := h.decides.trans k.decides
  cls i := (k.cls i).trans (h.cls i)
  held i := by
    rcases k.held i with ⟨hk, hw⟩ | hk
    · rcases h.held i with ⟨hh, hw'⟩ | ⟨hh, hst⟩
      · exact .inl ⟨hk.trans hh, hw ∘ hw'⟩
      · exact .inr ⟨hk.trans hh, hw hst⟩
    · exact .inr hk
  recallable i := h.recallable i ∘ k.recallable i

/-- One act on one entry. -/
theorem Sheds.of_update {s t : State} {i : Idx} {e : Entry} (decides : Decides s t)
    (h : ∀ j, t.entry j = if j = i then e else s.entry j) (hcls : e.cls = (s.entry i).cls)
    (hheld : e.held = (s.entry i).held ∧ (s.entry i).state ≠ .waiting ∨ e.held = 0 ∧ e.state = .waiting)
    (hrecall : isRecallable e = false) : Sheds s t where
  decides := decides
  cls j := by
    rw [h j]
    split
    · next hj => rw [hj]; exact hcls
    · rfl
  held j := by
    rw [h j]
    split
    · next hj => rw [hj]; exact hheld.imp_left (And.imp_right fun hne hw => absurd hw hne)
    · exact .inl ⟨rfl, id⟩
  recallable j hj := by
    rw [h j] at hj
    split at hj
    · rw [hrecall] at hj
      cases hj
    · exact hj

theorem recallEntry_sheds {i : Idx} {s : State} (h : isRecallable (s.entry i) = true) : Sheds s (recallEntry i s) :=
  .of_update (recallEntry_decides ((isRecallable_iff _).mp h)) (fun j => recallEntry_entry i j s) rfl (.inr ⟨rfl, rfl⟩) rfl

theorem shedReduceOne_sheds {i : Idx} {s : State} (h : isReducible (s.entry i) = true) (hex : excess s ≠ 0) :
    Sheds s (shedReduceOne i s) := by
  obtain ⟨hst, hfloor⟩ := (isReducible_iff _).mp h
  refine .of_update (reduceEntry_decides hst (Nat.le_max_left ..) (by omega)) (fun j => shedReduceOne_entry i j s) rfl
    (.inl ⟨rfl, ?_⟩) rfl
  rcases hst with hst | hst <;> simp [hst]

theorem shedRevoke_one {i : Idx} {s : State} (h : isRevocable (s.entry i) = true) : Sheds s (revokeEntry .shed i s) := by
  have hst := (isRevocable_iff _).mp h
  refine .of_update (revokeEntry_decides ?_) (fun j => revokeEntry_entry .shed i j s) rfl (.inl ⟨rfl, ?_⟩) rfl
  · rcases hst with hst | hst | hst <;> rw [hst] <;> rfl
  · rcases hst with hst | hst | hst <;> simp [hst]

/-! ## The steps -/

theorem shedRecall_eq (s : State) : shedRecall s = whileExcess recallEntry (recallOrder s) s := rfl

section
variable {s : State} (hl : ListsOk s)
include hl

theorem nodup_newestFirst (c : Sys2Proof.Class) (p : Entry → Bool) : (newestFirst s c p).Nodup :=
  pairwise_nodup (pairwise_newestFirst hl.2.1 c p)

theorem nodup_recallOrder : (recallOrder s).Nodup := pairwise_nodup (pairwise_recallOrder hl.2.1)

theorem shedRecall_sheds : Sheds s (shedRecall s) :=
  whileExcess_rel recallEntry_other .refl .trans (fun _ _ h _ => recallEntry_sheds h) (nodup_recallOrder hl) s
    fun i hi => ((mem_recallOrder s i).mp hi).2

theorem shedReduce_sheds (c : Sys2Proof.Class) : Sheds s (shedReduce c s) :=
  whileExcess_rel shedReduceOne_other .refl .trans (fun _ _ h hex => shedReduceOne_sheds h hex) (nodup_newestFirst hl c _) s
    fun i hi => ((mem_newestFirst s c _ i).mp hi).2.2

theorem shedRevoke_sheds (c : Sys2Proof.Class) : Sheds s (shedRevoke c s) :=
  whileExcess_rel (revokeEntry_other .shed) .refl .trans (fun _ _ h _ => shedRevoke_one h) (nodup_newestFirst hl c _) s
    fun i hi => ((mem_newestFirst s c _ i).mp hi).2.2

/-- With an excess left after step A no OFFERED and no ENABLING entry is left (R64). -/
theorem shedRecall_all (hleft : excess (shedRecall s) ≠ 0) (i : Idx) : isRecallable ((shedRecall s).entry i) = false := by
  by_cases hi : i ∈ recallOrder s
  · have hall := whileExcess_all recallEntry_other (q := fun e => isRecallable e = false) (p := isRecallable)
      (fun j u _ => by rw [recallEntry_entry, if_pos rfl]; rfl) (nodup_recallOrder hl) s
      (fun j hj => ((mem_recallOrder s j).mp hj).2) hleft
    exact hall i hi
  · rw [shedRecall_eq, whileExcess_other recallEntry_other hi]
    refine Bool.eq_false_iff.mpr fun hrec => hi ((mem_recallOrder s i).mpr ⟨(hl.2.2.2.1 i).mpr ?_, hrec⟩)
    rcases (isRecallable_iff _).mp hrec with h | h <;> rw [h] <;> rfl

/-- With an excess left after step B1 every ACTIVE or REDUCED entry of the class is at its floor (R66). -/
theorem shedReduce_all (c : Sys2Proof.Class) (hleft : excess (shedReduce c s) ≠ 0) (i : Idx) (hc : (s.entry i).cls = c) :
    isReducible ((shedReduce c s).entry i) = false := by
  by_cases hi : i ∈ newestFirst s c isReducible
  · have hall := whileExcess_all shedReduceOne_other (q := fun e => isReducible e = false) (p := isReducible)
      (fun j u _ => by rw [shedReduceOne_entry, if_pos rfl]; rfl) (nodup_newestFirst hl c _) s
      (fun j hj => ((mem_newestFirst s c _ j).mp hj).2.2) hleft
    exact hall i hi
  · rw [shedReduce, whileExcess_other shedReduceOne_other hi]
    refine Bool.eq_false_iff.mpr fun hred => hi ((mem_newestFirst s c _ i).mpr ⟨(hl.2.2.2.1 i).mpr ?_, hc, hred⟩)
    rcases ((isReducible_iff _).mp hred).1 with h | h <;> rw [h] <;> rfl

/-- With an excess left after step B2 no ACTIVE, REDUCED or REDUCING entry of the class is left (R67). -/
theorem shedRevoke_all (c : Sys2Proof.Class) (hleft : excess (shedRevoke c s) ≠ 0) (i : Idx) (hc : (s.entry i).cls = c) :
    isRevocable ((shedRevoke c s).entry i) = false := by
  by_cases hi : i ∈ newestFirst s c isRevocable
  · have hall := whileExcess_all (revokeEntry_other .shed) (q := fun e => isRevocable e = false) (p := isRevocable)
      (fun j u _ => by rw [revokeEntry_entry, if_pos rfl]; rfl) (nodup_newestFirst hl c _) s
      (fun j hj => ((mem_newestFirst s c _ j).mp hj).2.2) hleft
    exact hall i hi
  · rw [shedRevoke, whileExcess_other (revokeEntry_other .shed) hi]
    refine Bool.eq_false_iff.mpr fun hrev => hi ((mem_newestFirst s c _ i).mpr ⟨(hl.2.2.2.1 i).mpr ?_, hc, hrev⟩)
    rcases (isRevocable_iff _).mp hrev with h | h | h <;> rw [h] <;> rfl

end

theorem shedRecall_spent {s : State} (h : excess s = 0) : shedRecall s = s := whileExcess_done _ _ h

theorem shedReduce_spent {s : State} (h : excess s = 0) (c : Sys2Proof.Class) : shedReduce c s = s := whileExcess_done _ _ h

theorem shedRevoke_spent {s : State} (h : excess s = 0) (c : Sys2Proof.Class) : shedRevoke c s = s := whileExcess_done _ _ h

theorem shedReduce_other {s : State} {c : Sys2Proof.Class} {i : Idx} (h : (s.entry i).cls ≠ c) :
    (shedReduce c s).entry i = s.entry i :=
  whileExcess_other shedReduceOne_other (fun hi => h ((mem_newestFirst s c _ i).mp hi).2.1) s

theorem shedRevoke_other {s : State} {c : Sys2Proof.Class} {i : Idx} (h : (s.entry i).cls ≠ c) :
    (shedRevoke c s).entry i = s.entry i :=
  whileExcess_other (revokeEntry_other .shed) (fun hi => h ((mem_newestFirst s c _ i).mp hi).2.1) s

/-! ## Class by class (R63) -/

/-- Steps B1 and B2 for a class. -/
def shedClass (s : State) (c : Sys2Proof.Class) : State := shedRevoke c (shedReduce c s)

theorem shedPlan_eq (s : State) : shedPlan s = classesUp.foldl shedClass (shedRecall s) := rfl

theorem shedClass_sheds {s : State} (hl : ListsOk s) (c : Sys2Proof.Class) : Sheds s (shedClass s c) :=
  (shedReduce_sheds hl c).trans (shedRevoke_sheds ((shedReduce_sheds hl c).decides.lists hl) c)

theorem foldl_shedClass_sheds {s : State} (hl : ListsOk s) (cs : List Sys2Proof.Class) : Sheds s (cs.foldl shedClass s) := by
  induction cs generalizing s with
  | nil => exact .refl s
  | cons c cs ih => exact (shedClass_sheds hl c).trans (ih ((shedClass_sheds hl c).decides.lists hl))

theorem shedPlan_sheds {s : State} (hl : ListsOk s) : Sheds s (shedPlan s) :=
  (shedRecall_sheds hl).trans (foldl_shedClass_sheds ((shedRecall_sheds hl).decides.lists hl) classesUp)

theorem shedClass_spent {s : State} (h : excess s = 0) (c : Sys2Proof.Class) : shedClass s c = s := by
  rw [shedClass, shedReduce_spent h, shedRevoke_spent h]

theorem foldl_shedClass_spent {s : State} (h : excess s = 0) (cs : List Sys2Proof.Class) : cs.foldl shedClass s = s := by
  induction cs with
  | nil => rfl
  | cons c cs ih => rw [List.foldl_cons, shedClass_spent h, ih]

theorem shedClass_other {s : State} (hl : ListsOk s) {c : Sys2Proof.Class} {i : Idx} (h : (s.entry i).cls ≠ c) :
    (shedClass s c).entry i = s.entry i := by
  rw [shedClass, shedRevoke_other (by rw [(shedReduce_sheds hl c).cls]; exact h), shedReduce_other h]

theorem foldl_shedClass_other {s : State} (hl : ListsOk s) {cs : List Sys2Proof.Class} {i : Idx}
    (h : (s.entry i).cls ∉ cs) : (cs.foldl shedClass s).entry i = s.entry i := by
  induction cs generalizing s with
  | nil => rfl
  | cons c cs ih =>
    have hstep := shedClass_sheds hl c
    have hne : (s.entry i).cls ≠ c := fun hc => h (hc ▸ List.mem_cons_self)
    rw [List.foldl_cons, ih (hstep.decides.lists hl) (by rw [hstep.cls]; exact fun hm => h (List.mem_cons_of_mem _ hm)),
      shedClass_other hl hne]

/-- No OFFERED and no ENABLING entry, and of the classes given none that the plan could still ask. -/
def Exhausted (p : Sys2Proof.Class → Prop) (s : State) : Prop :=
  ∀ i, isRecallable (s.entry i) = false ∧ (p (s.entry i).cls → isRevocable (s.entry i) = false)

theorem Exhausted.shedClass {p : Sys2Proof.Class → Prop} {s : State} (hl : ListsOk s) (h : Exhausted p s) {c : Sys2Proof.Class}
    (hleft : excess (shedClass s c) ≠ 0) : Exhausted (fun d => p d ∨ d = c) (shedClass s c) := by
  have hstep := shedClass_sheds hl c
  refine fun i => ⟨Bool.eq_false_iff.mpr fun hi => ?_, fun hc => ?_⟩
  · have hold := hstep.recallable i hi
    rw [(h i).1] at hold
    cases hold
  · by_cases hic : (s.entry i).cls = c
    · have hreduce := shedReduce_sheds hl c
      exact shedRevoke_all (hreduce.decides.lists hl) c hleft i ((hreduce.cls i).trans hic)
    · rw [shedClass_other hl hic]
      rw [hstep.cls i] at hc
      exact (h i).2 (hc.resolve_right hic)

theorem Exhausted.foldl {p : Sys2Proof.Class → Prop} {s : State} (hl : ListsOk s) {cs : List Sys2Proof.Class}
    (h : excess s ≠ 0 → Exhausted p s) (hleft : excess (cs.foldl Machine.shedClass s) ≠ 0) :
    Exhausted (fun d => p d ∨ d ∈ cs) (cs.foldl Machine.shedClass s) := by
  induction cs generalizing s p with
  | nil => exact fun i => ⟨(h hleft i).1, fun hp => (h hleft i).2 (by simpa using hp)⟩
  | cons c cs ih =>
    have hbefore (hx : excess s = 0) : False := by
      rw [foldl_shedClass_spent hx] at hleft
      exact hleft hx
    have hstep := ih ((shedClass_sheds hl c).decides.lists hl) (fun hx => (h hbefore).shedClass hl hx) hleft
    refine fun i => ⟨(hstep i).1, fun hp => (hstep i).2 ?_⟩
    rcases hp with hp | hp
    · exact .inl (.inl hp)
    · exact (List.mem_cons.mp hp).imp_left .inr

/-- The state in which the plan comes to class c. -/
def beforeClass (c : Sys2Proof.Class) (s : State) : State := (classesUp.filter (· < c)).foldl shedClass (shedRecall s)

theorem shedPlan_split (c : Sys2Proof.Class) (s : State) :
    shedPlan s = (classesUp.filter (c < ·)).foldl shedClass (shedClass (beforeClass c s) c) := by
  have hsplit : classesUp = classesUp.filter (· < c) ++ c :: classesUp.filter (c < ·) := by revert c; decide
  rw [shedPlan_eq]
  conv_lhs => rw [hsplit]
  rw [List.foldl_append, List.foldl_cons, beforeClass]

theorem mem_classesUp (c : Sys2Proof.Class) : c ∈ classesUp := by revert c; decide

/-- The plan comes to a class with an excess left only when it has exhausted the classes below (R63). -/
theorem beforeClass_exhausted {s : State} (hl : ListsOk s) {c : Sys2Proof.Class} (hleft : excess (beforeClass c s) ≠ 0) :
    Exhausted (· < c) (beforeClass c s) := by
  have h := Exhausted.foldl (p := fun _ => False) ((shedRecall_sheds hl).decides.lists hl)
    (fun hx i => ⟨shedRecall_all hl hx i, False.elim⟩) hleft
  exact fun i => ⟨(h i).1, fun hc => (h i).2 (.inr (List.mem_filter.mpr ⟨mem_classesUp _, decide_eq_true hc⟩))⟩

/-! ## The plan covers the excess (R63; O49) -/

theorem excess_zero_iff (s : State) : excess s = 0 ↔ Covered s := by
  unfold excess Covered
  omega

/-- Where every admitted entry is REVOKING, P is H. -/
theorem covered_of_revoking {s : State} (he : EntriesOk s)
    (h : ∀ i, isAdmitted (s.entry i).state = true → (s.entry i).state = .revoking) : Covered s := by
  have hequal : heldTotal s = pendingTotal s := by
    unfold heldTotal pendingTotal
    congr 1
    refine List.map_congr_left fun i _ => ?_
    by_cases hadm : isAdmitted (s.entry i).state = true
    · rw [pendingOf, h i hadm]
    · have hheld := (he i).2.2.2.1 (by simpa using hadm)
      have hle := pendingOf_le (s.entry i)
      omega
  unfold Covered
  omega

theorem shedPlan_covered {s : State} (he : EntriesOk s) (hl : ListsOk s) : Covered (shedPlan s) := by
  by_contra hleft
  have hexhausted := Exhausted.foldl (p := fun _ => False) (cs := classesUp) ((shedRecall_sheds hl).decides.lists hl)
    (fun hx i => ⟨shedRecall_all hl hx i, False.elim⟩) (mt (excess_zero_iff _).mp hleft)
  refine hleft (covered_of_revoking ((shedPlan_sheds hl).decides.entries he) fun i hadm => ?_)
  obtain ⟨hrecall, hrevoke⟩ := hexhausted i
  have hrevoke := hrevoke (.inr (mem_classesUp _))
  rw [← shedPlan_eq] at hrecall hrevoke
  revert hadm
  cases hst : ((shedPlan s).entry i).state <;> simp [isAdmitted, isRecallable, isRevocable, hst] at hrecall hrevoke ⊢

/-- Settles O49: the walk by its two cases, and the plan by the classes it exhausts. -/
theorem shedPlanCoversTheExcess : Obligations.ShedPlanCoversTheExcess := by
  refine ⟨fun s => ⟨by unfold excess; omega, fun h => ?_⟩, fun act i rest s => ⟨rfl, whileExcess_stops act i rest, fun h => ?_⟩,
    fun s he hl => ⟨?_, shedPlan_only s, fun i => ?_⟩⟩
  · rw [shedPlan_eq, shedRecall_spent h, foldl_shedClass_spent h]
  · exact whileExcess_acts act i rest (Nat.ne_of_gt h)
  · have hcovered := shedPlan_covered he hl
    rw [Covered, (shedPlan_only s).capacity] at hcovered
    exact hcovered
  · exact ((shedPlan_sheds hl).held i).imp_left And.left

/-! ## The order of the plan (R63 to R67; O50) -/

/-- A walk leaves an entry as it was or as its act leaves it. -/
theorem whileExcess_cases {act : Idx → State → State} (hother : ∀ i s j, j ≠ i → (act i s).entry j = s.entry j)
    {st : EntryState} (hact : ∀ i s, ((act i s).entry i).state = st) (l : List Idx) (s : State) (i : Idx) :
    (whileExcess act l s).entry i = s.entry i ∨ ((whileExcess act l s).entry i).state = st := by
  induction l generalizing s with
  | nil => exact .inl rfl
  | cons j l ih =>
    by_cases hspent : excess s = 0
    · exact .inl (by rw [whileExcess_stops act j l hspent])
    rw [whileExcess_acts act j l hspent]
    rcases ih (act j s) with hsame | hst
    · by_cases hij : i = j
      · exact .inr (by rw [hsame, hij, hact])
      · exact .inl (hsame.trans (hother j s i hij))
    · exact .inr hst

theorem shedRecall_cases (s : State) (i : Idx) :
    (shedRecall s).entry i = s.entry i ∨ ((shedRecall s).entry i).state = .waiting :=
  whileExcess_cases recallEntry_other (fun j u => by rw [recallEntry_entry, if_pos rfl]) _ s i

theorem shedReduce_cases (c : Sys2Proof.Class) (s : State) (i : Idx) :
    (shedReduce c s).entry i = s.entry i ∨ ((shedReduce c s).entry i).state = .reducing :=
  whileExcess_cases shedReduceOne_other (fun j u => by rw [shedReduceOne_entry, if_pos rfl]) _ s i

theorem Sheds.waiting {s t : State} (h : Sheds s t) {i : Idx} (hw : (s.entry i).state = .waiting) :
    (t.entry i).state = .waiting := by
  rcases h.held i with ⟨-, hk⟩ | ⟨-, hk⟩
  · exact hk hw
  · exact hk

section
variable {s : State} (hl : ListsOk s)
include hl

theorem beforeClass_sheds (c : Sys2Proof.Class) : Sheds s (beforeClass c s) :=
  (shedRecall_sheds hl).trans (foldl_shedClass_sheds ((shedRecall_sheds hl).decides.lists hl) _)

/-- The classes above change nothing of the entries up to class c. -/
theorem shedPlan_entry_class {c : Sys2Proof.Class} {i : Idx} (hc : (s.entry i).cls ≤ c) :
    (shedPlan s).entry i = (shedClass (beforeClass c s) c).entry i := by
  have hbefore := beforeClass_sheds hl c
  have hclass := shedClass_sheds (hbefore.decides.lists hl) c
  rw [shedPlan_split c]
  refine foldl_shedClass_other (hclass.decides.lists (hbefore.decides.lists hl)) fun hm => ?_
  have hlt : c < ((shedClass (beforeClass c s) c).entry i).cls := of_decide_eq_true (List.mem_filter.mp hm).2
  rw [hclass.cls i, hbefore.cls i] at hlt
  exact absurd hlt (not_lt.mpr hc)

/-- Up to the steps of its class an entry changes only by its recall. -/
theorem beforeClass_cases (i : Idx) :
    (beforeClass (s.entry i).cls s).entry i = s.entry i ∨ ((beforeClass (s.entry i).cls s).entry i).state = .waiting := by
  have hrecall := shedRecall_sheds hl
  have hsame : (beforeClass (s.entry i).cls s).entry i = (shedRecall s).entry i := by
    refine foldl_shedClass_other (hrecall.decides.lists hl) fun hm => ?_
    have hlt : ((shedRecall s).entry i).cls < (s.entry i).cls := of_decide_eq_true (List.mem_filter.mp hm).2
    rw [hrecall.cls i] at hlt
    exact lt_irrefl _ hlt
  rw [hsame]
  exact shedRecall_cases s i

/-- An entry that the plan has changed and leaves REDUCING or REVOKING was changed by the steps of its class. -/
theorem asked_changed {i : Idx} (hchanged : (shedPlan s).entry i ≠ s.entry i)
    (hasked : ((shedPlan s).entry i).state = .reducing ∨ ((shedPlan s).entry i).state = .revoking) :
    (shedClass (beforeClass (s.entry i).cls s) (s.entry i).cls).entry i ≠ (beforeClass (s.entry i).cls s).entry i := by
  rw [shedPlan_entry_class hl le_rfl] at hchanged hasked
  intro hequal
  rcases beforeClass_cases hl i with hsame | hw
  · exact hchanged (hequal.trans hsame)
  · rw [hequal, hw] at hasked
    rcases hasked with h | h <;> cases h

/-- It was changed with an excess left. -/
theorem asked_excess {i : Idx} (hchanged : (shedPlan s).entry i ≠ s.entry i)
    (hasked : ((shedPlan s).entry i).state = .reducing ∨ ((shedPlan s).entry i).state = .revoking) :
    excess (beforeClass (s.entry i).cls s) ≠ 0 := fun hspent =>
  asked_changed hl hchanged hasked (by rw [shedClass_spent hspent])

/-- An entry that the plan has revoked was revoked with an excess left after step B1 of its class. -/
theorem revoked_excess {i : Idx} (hchanged : (shedPlan s).entry i ≠ s.entry i)
    (hrevoked : ((shedPlan s).entry i).state = .revoking) :
    excess (shedReduce (s.entry i).cls (beforeClass (s.entry i).cls s)) ≠ 0 := by
  intro hspent
  have hdiffer := asked_changed hl hchanged (.inr hrevoked)
  rw [shedPlan_entry_class hl le_rfl] at hrevoked
  rw [shedClass, shedRevoke_spent hspent] at hdiffer hrevoked
  rcases shedReduce_cases (s.entry i).cls (beforeClass (s.entry i).cls s) i with hsame | hst
  · exact hdiffer hsame
  · rw [hst] at hrevoked
    cases hrevoked

/-- Of the class whose entries are being revoked none is left above its floor but as REDUCING. -/
theorem shedPlan_atFloor {c : Sys2Proof.Class} (hleft : excess (shedReduce c (beforeClass c s)) ≠ 0) {j : Idx}
    (hc : (s.entry j).cls = c) : isReducible ((shedPlan s).entry j) = false := by
  have hbefore := beforeClass_sheds hl c
  have hlb := hbefore.decides.lists hl
  have hnone := shedReduce_all hlb c hleft j ((hbefore.cls j).trans hc)
  rw [shedPlan_entry_class hl hc.le, shedClass]
  rcases whileExcess_cases (revokeEntry_other .shed) (st := .revoking)
    (fun i u => by rw [revokeEntry_entry, if_pos rfl]) (newestFirst (shedReduce c (beforeClass c s)) c isRevocable)
    (shedReduce c (beforeClass c s)) j with hsame | hst
  · rw [shedRevoke, hsame]
    exact hnone
  · rw [shedRevoke, Bool.eq_false_iff, Ne, isReducible_iff, hst]
    simp

/-- What the plan leaves when it has asked an entry: no entry to recall, of a lower class none to ask, and with the entry
revoked none of its class above the floor (R63 to R67). -/
theorem shedPlan_asked {i : Idx} (hchanged : (shedPlan s).entry i ≠ s.entry i)
    (hasked : ((shedPlan s).entry i).state = .reducing ∨ ((shedPlan s).entry i).state = .revoking) (j : Idx) :
    isRecallable ((shedPlan s).entry j) = false
    ∧ (((shedPlan s).entry j).cls < ((shedPlan s).entry i).cls → isRevocable ((shedPlan s).entry j) = false)
    ∧ (((shedPlan s).entry i).state = .revoking → ((shedPlan s).entry j).cls = ((shedPlan s).entry i).cls →
        isReducible ((shedPlan s).entry j) = false) := by
  have hplan := shedPlan_sheds hl
  have hbefore := beforeClass_sheds hl (s.entry i).cls
  have hlb := hbefore.decides.lists hl
  obtain ⟨hrecallable, hrevocable⟩ := beforeClass_exhausted hl (asked_excess hl hchanged hasked) j
  rw [hplan.cls i, hplan.cls j]
  refine ⟨Bool.eq_false_iff.mpr fun h => ?_, fun hlt => ?_, fun hrevoked hcls => ?_⟩
  · have hlater : Sheds (beforeClass (s.entry i).cls s) (shedPlan s) := by
      rw [shedPlan_split (s.entry i).cls]
      exact (shedClass_sheds hlb _).trans (foldl_shedClass_sheds ((shedClass_sheds hlb _).decides.lists hlb) _)
    rw [hlater.recallable j h] at hrecallable
    cases hrecallable
  · rw [shedPlan_entry_class hl hlt.le, shedClass_other hlb (by rw [hbefore.cls j]; exact hlt.ne)]
    exact hrevocable (by rw [hbefore.cls j]; exact hlt)
  · exact shedPlan_atFloor hl (revoked_excess hl hchanged hrevoked) hcls

end

/-- Settles O50: the candidates in their order, and what is left of the lower classes when a class is asked. -/
theorem shedPlanOrder : Obligations.ShedPlanOrder := by
  refine ⟨fun s => ⟨by simp only [shedPlan, classesUp, List.foldl_cons, List.foldl_nil], ⟨recallOrder s, rfl, pairwise_recallOrder,
    fun i => ?_⟩, fun c => ⟨⟨newestFirst s c isReducible, fun hn => pairwise_newestFirst hn c _, rfl, fun i => ?_⟩, newestFirst s c isRevocable,
    fun hn => pairwise_newestFirst hn c _, rfl, fun i => ?_⟩⟩, ?_⟩
  · rw [mem_recallOrder, isRecallable_iff]
  · rw [mem_newestFirst, isReducible_iff]
  · rw [mem_newestFirst, isRevocable_iff]
  intro s i j he hl
  have hleft := fun hchanged hasked => shedPlan_asked hl (i := i) hchanged hasked j
  simp only [Bool.eq_false_iff, Ne, isRecallable_iff, isRevocable_iff, isReducible_iff] at hleft
  generalize shedPlan s = t at hleft ⊢
  refine ⟨fun ⟨hchanged, hasked⟩ => ?_, fun ⟨hchanged, hasked⟩ hlt => ?_, fun ⟨hchanged, hasked⟩ hrevoked hcls hst => ?_⟩
  · exact not_or.mp (hleft hchanged hasked).1
  · have hnone := (hleft hchanged hasked).2.1 hlt
    exact ⟨fun h => hnone (.inl h), fun h => hnone (.inr (.inl h)), fun h => hnone (.inr (.inr h))⟩
  · exact not_lt.mp fun habove => (hleft hchanged hasked).2.2 hrevoked hcls ⟨hst, habove⟩

end Sys2Proof.Machine
end

section
/-! PROOFS. What every step keeps, continued: the invariant apart from the deficit flag and device reset, and the relations a
step is shown to be in. -/

namespace Sys2Proof.Machine

/-! ## The invariant in two parts -/

/-- The part of the invariant that does not speak of the supply: contracts, outboxes and slots. -/
structure Contracts (s : State) : Prop where
  entries : EntriesOk s
  ahead : EntriesAhead s
  lists : ListsOk s
  limits : SlotLimits s
  notices : NoticesOk s
  slots : SlotsCore s
  slotsAhead : SlotsAhead s

/-- The timers that belong to no entry and no slot (R1). -/
structure ClocksOk (s : State) : Prop where
  qual : Ahead s s.qualTimer
  hold : Ahead s s.holdTimer
  stall : Ahead s s.stallTimer
  lastOn : ∀ t ∈ s.lastOn, 2 * t ≤ s.now

/-- The invariant apart from the deficit flag, which is judged at the end of an event, and from device reset. -/
structure Sound (s : State) : Prop where
  contracts : Contracts s
  config : ConfigOk s
  supply : SupplyOk s
  capacity : CapacityOk s
  covered : Covered s
  supplied : ∀ n, SlotSupplied s n
  clocks : ClocksOk s
  ports : PortsOk s

theorem Inv.sound {s : State} (h : Inv s) : Sound s where
  contracts :=
    ⟨h.entries, h.timers.1, h.lists, h.limits, h.notices, ((slotsOk_iff s).mp h.slots).1, fun n => h.timers.2.1 n⟩
  config := h.config
  supply := h.supply
  capacity := h.capacity
  covered := h.budget.1
  supplied := ((slotsOk_iff s).mp h.slots).2
  clocks := by
    obtain ⟨-, -, hqual, hhold, hstall, hlast⟩ := h.timers
    exact ⟨hqual, hhold, hstall, hlast⟩
  ports := h.ports

theorem Sound.inv {s : State} (h : Sound s) (hf : FlagOk s) (hr : ResetOk s) : Inv s where
  entries := h.contracts.entries
  lists := h.contracts.lists
  limits := h.contracts.limits
  config := h.config
  supply := h.supply
  capacity := h.capacity
  budget := ⟨h.covered, hf⟩
  slots := (slotsOk_iff s).mpr ⟨h.contracts.slots, h.supplied⟩
  notices := h.contracts.notices
  timers := ⟨h.contracts.ahead, h.contracts.slotsAhead, h.clocks.qual, h.clocks.hold, h.clocks.stall, h.clocks.lastOn⟩
  ports := h.ports
  reset := hr

theorem Decides.contracts {s t : State} (h : Decides s t) (hs : Contracts s) : Contracts t where
  entries := h.entries hs.entries
  ahead := h.ahead hs.ahead
  lists := h.lists hs.lists
  limits := h.limits hs.limits
  notices := h.notices hs.notices
  slots := h.slots hs.slots
  slotsAhead n := by
    rcases h.recs n with hn | hn <;> rw [hn]
    · exact (hs.slotsAhead n).of_now h.only.now
    · exact (hs.slotsAhead n).idle.of_now h.only.now

theorem NoticesOk.of_same {s t : State} (h : NoticesOk s) (htable : t.table = s.table) (hbox : t.outboxes = s.outboxes)
    (hnext : t.nextItem = s.nextItem) : NoticesOk t := by
  refine h.of_kept hnext.ge (fun n r hr => ?_) (fun n => ?_) (fun n x _ hof => ?_) fun i hi => ?_
  · rw [outbox_of_outboxes hbox] at hr
    rw [hnext]
    exact h.reply_lt hr
  · rw [outbox_of_outboxes hbox]
  · rw [entry_of_table htable]
    exact hof
  · rw [entry_of_table htable] at hi ⊢
    exact noticePending_of_kept (fun x hx _ _ => by rw [outbox_of_outboxes hbox]; exact hx) (h.2 i hi)

/-- Contracts, outboxes and slots are in order whatever the other fields are. -/
theorem Contracts.of_same {s t : State} (h : Contracts s) (htable : t.table = s.table) (hw : t.waitQueue = s.waitQueue)
    (ha : t.admission = s.admission) (hbox : t.outboxes = s.outboxes) (hnext : t.nextItem = s.nextItem)
    (hslots : t.slots = s.slots) (hinrush : t.inrush = s.inrush) (hnow : t.now = s.now) : Contracts t where
  entries i := by rw [entry_of_table htable]; exact h.entries i
  ahead i := by rw [entry_of_table htable]; exact (h.ahead i).of_now hnow
  lists := h.lists.of_kinds hw ha fun i => by rw [entry_of_table htable]; exact ⟨Iff.rfl, rfl, rfl⟩
  limits := h.limits.of_entries fun i hi => by rw [entry_of_table htable] at hi ⊢; exact ⟨hi, rfl, rfl⟩
  notices := h.notices.of_same htable hbox hnext
  slots := h.slots.of_keepsNeed hslots hinrush fun i => by rw [entry_of_table htable]; exact .refl _
  slotsAhead n := by rw [slotRec_of_slots hslots]; exact (h.slotsAhead n).of_now hnow

theorem PortsOk.of_ports {s t : State} (hbus : t.bus = s.bus) (hbits : t.bits = s.bits) (hclock : t.clock = s.clock)
    (hstall : t.stallTimer = s.stallTimer) (hpins : t.pins = s.pins) (hframe : t.frame = s.frame)
    (hstraps : t.straps = s.straps) (hreset : t.inReset = s.inReset) (h : PortsOk s) : PortsOk t := by
  simp only [PortsOk, BusHolds, FrameOk, windowValid, hbus, hbits, hclock, hstall, hpins, hframe, hstraps, hreset] at h ⊢
  exact h

theorem SupplyOk.of_only {s t : State} (h : ContractsOnly s t) (hs : SupplyOk s) : SupplyOk t := by
  simp only [SupplyOk, h.supply, h.qualified, h.holdTimer, h.candidate, h.qualTimer] at hs ⊢
  exact hs

theorem ClocksOk.of_only {s t : State} (h : ContractsOnly s t) (hs : ClocksOk s) : ClocksOk t := by
  obtain ⟨hqual, hhold, hstall, hlast⟩ := hs
  constructor
  · simpa only [Ahead, h.qualTimer, h.now] using hqual
  · simpa only [Ahead, h.holdTimer, h.now] using hhold
  · simpa only [Ahead, h.stallTimer, h.now] using hstall
  · simpa only [h.lastOn, h.now] using hlast

theorem operatingCapacity_of_active {s t : State} (h : t.active = s.active) (b : Band) :
    operatingCapacity t b = operatingCapacity s b := by
  simp only [operatingCapacity, bandCapacity, activeItem, h]

theorem CapacityOk.of_only {s t : State} (h : ContractsOnly s t)
    (hadmits : ∀ i, isAdmitted (t.entry i).state = true → isAdmitted (s.entry i).state = true ∨ s.supply = .operating)
    (hs : CapacityOk s) : CapacityOk t := by
  obtain ⟨hle, hnone, hop⟩ := hs
  refine ⟨h.capacity ▸ hle, fun hst => ?_, fun hst => ?_⟩
  · rw [h.supply] at hst
    refine ⟨h.capacity ▸ (hnone hst).1, fun i => Bool.eq_false_iff.mpr fun hi => ?_⟩
    rcases hadmits i hi with hi | hop
    · rw [(hnone hst).2 i] at hi
      cases hi
    · rcases hst with hst | hst <;> rw [hst] at hop <;> cases hop
  · rw [h.supply] at hst
    rw [h.capacity, h.qualified, operatingCapacity_of_active h.active]
    exact hop hst

theorem SlotSupplied.of_rec {s t : State} {n : Slot} (h : t.supply = s.supply)
    (hrec : t.slotRec n = s.slotRec n ∨ t.slotRec n = idleRec (s.slotRec n)) (hs : SlotSupplied s n) : SlotSupplied t n := by
  rcases hrec with hrec | hrec
  · exact ⟨by rw [hrec, h]; exact hs.powered, by rw [hrec, h]; exact hs.suspended⟩
  · exact ⟨by rw [hrec]; simp [idleRec], by rw [hrec]; simp [idleRec]⟩

/-- A state whose contracts, outboxes and slots alone differ from a sound one is sound when those are in order. -/
theorem Sound.of_only {s t : State} (only : ContractsOnly s t) (contracts : Contracts t)
    (admits : ∀ i, isAdmitted (t.entry i).state = true → isAdmitted (s.entry i).state = true ∨ s.supply = .operating)
    (covered : Covered t) (supplied : ∀ n, SlotSupplied t n) (hs : Sound s) : Sound t where
  contracts := contracts
  config := hs.config.of_active only.active
  supply := hs.supply.of_only only
  capacity := hs.capacity.of_only only admits
  covered := covered
  supplied := supplied
  clocks := hs.clocks.of_only only
  ports := .of_ports only.bus only.bits only.clock only.stallTimer only.pins only.frame only.straps only.inReset hs.ports

theorem Decides.sound {s t : State} (h : Decides s t) (hs : Sound s) : Sound t :=
  .of_only h.only (h.contracts hs.contracts) h.admits (h.covered hs.contracts.entries hs.covered)
    (fun n => (hs.supplied n).of_rec h.only.supply (h.recs n)) hs

/-! ## What an event leaves of the registers and the queues -/

/-- No pin, no queue and no register that only the host writes has changed, and no flag is cleared. -/
structure Undisturbed (s t : State) : Prop where
  pending : t.pending = s.pending
  now : t.now = s.now
  ties : t.ties = s.ties
  pins : t.pins = s.pins
  wires : t.wires = s.wires
  inReset : t.inReset = s.inReset
  straps : t.straps = s.straps
  frame : t.frame = s.frame
  staged : t.staged = s.staged
  active : t.active = s.active
  evmask : t.evmask = s.evmask
  cmd : t.cmd = s.cmd
  arg0 : t.arg0 = s.arg0
  arg1 : t.arg1 = s.arg1
  result : t.result = s.result
  snap : t.snap = s.snap
  events : ∀ b : Nat, s.events.getLsbD b = true → t.events.getLsbD b = true

theorem Undisturbed.refl (s : State) : Undisturbed s s := by constructor <;> simp

theorem Undisturbed.trans {s t u : State} (h : Undisturbed s t) (k : Undisturbed t u) : Undisturbed s u where
  pending := k.pending.trans h.pending
  now := k.now.trans h.now
  ties := k.ties.trans h.ties
  pins := k.pins.trans h.pins
  wires := k.wires.trans h.wires
  inReset := k.inReset.trans h.inReset
  straps := k.straps.trans h.straps
  frame := k.frame.trans h.frame
  staged := k.staged.trans h.staged
  active := k.active.trans h.active
  evmask := k.evmask.trans h.evmask
  cmd := k.cmd.trans h.cmd
  arg0 := k.arg0.trans h.arg0
  arg1 := k.arg1.trans h.arg1
  result := k.result.trans h.result
  snap := k.snap.trans h.snap
  events b := k.events b ∘ h.events b

theorem Undisturbed.of_decisions {s t : State} (h : DecisionsOnly s t)
    (hevents : ∀ b : Nat, s.events.getLsbD b = true → t.events.getLsbD b = true) : Undisturbed s t :=
  ⟨h.pending, h.now, h.ties, h.pins, h.wires, h.inReset, h.straps, h.frame, h.staged, h.active, h.evmask, h.cmd, h.arg0,
    h.arg1, h.result, h.snap, hevents⟩

theorem Undisturbed.of_only {s t : State} (h : ContractsOnly s t) : Undisturbed s t :=
  .of_decisions h.decisions fun b hb => by rw [h.events]; exact hb

theorem raise_keeps_flags (e : Event) (s : State) (b : Nat) (h : s.events.getLsbD b = true) :
    (raise e s).events.getLsbD b = true := by
  show (s.events ||| eventMask e).getLsbD b = true
  rw [BitVec.getLsbD_or, h, Bool.true_or]

theorem raise_undisturbed (e : Event) (s : State) : Undisturbed s (raise e s) :=
  .of_decisions (raise_only e s) (raise_keeps_flags e s)

theorem judgeDeficit_undisturbed (s : State) : Undisturbed s (judgeDeficit s) := by
  refine .of_decisions (judgeDeficit_only s) fun b hb => ?_
  unfold judgeDeficit
  split <;> split
  · exact hb
  · exact raise_keeps_flags _ _ b hb
  · exact raise_keeps_flags _ _ b hb
  · exact hb

/-! ## Events -/

/-- An event, or a part of one before the deficit flag is judged: lists, configuration, supply and the whole invariant but for
the flag hold after it as before. -/
structure Keeps (s t : State) : Prop where
  undisturbed : Undisturbed s t
  lists : ListsOk s → ListsOk t
  supply : ConfigOk s → SupplyOk s → SupplyOk t
  sound : Sound s → Sound t

/-- An event with its judging of the deficit flag. -/
structure Settles (s t : State) : Prop extends Keeps s t where
  flag : Sound s → FlagOk s → FlagOk t

theorem Keeps.refl (s : State) : Keeps s s := ⟨.refl s, id, fun _ => id, id⟩

theorem Keeps.trans {s t u : State} (h : Keeps s t) (k : Keeps t u) : Keeps s u where
  undisturbed := h.undisturbed.trans k.undisturbed
  lists := k.lists ∘ h.lists
  supply hc hs := k.supply (hc.of_active h.undisturbed.active) (h.supply hc hs)
  sound := k.sound ∘ h.sound

theorem Settles.refl (s : State) : Settles s s := ⟨.refl s, fun _ => id⟩

theorem Settles.trans {s t u : State} (h : Settles s t) (k : Settles t u) : Settles s u :=
  ⟨h.toKeeps.trans k.toKeeps, fun hs hf => k.flag (h.sound hs) (h.flag hs hf)⟩

theorem Keeps.ite {p : Prop} [Decidable p] {s t u : State} (h : p → Keeps s t) (k : ¬ p → Keeps s u) :
    Keeps s (if p then t else u) := by
  split
  · next hp => exact h hp
  · next hp => exact k hp

theorem Settles.ite {p : Prop} [Decidable p] {s t u : State} (h : p → Settles s t) (k : ¬ p → Settles s u) :
    Settles s (if p then t else u) := by
  split
  · next hp => exact h hp
  · next hp => exact k hp

theorem Settles.unlessReset {f : State → State} {s : State} (h : s.inReset = false → Settles s (f s)) :
    Settles s (Machine.unlessReset f s) := by
  cases hr : s.inReset with
  | true => rw [unlessReset_held hr]; exact .refl s
  | false => rw [unlessReset_running hr]; exact h hr

/-- The decision is one that rests on the lists. -/
theorem Keeps.of_decides {s t : State} (only : ContractsOnly s t) (h : ListsOk s → Decides s t) : Keeps s t where
  undisturbed := .of_only only
  lists hl := (h hl).lists hl
  supply _ := .of_only only
  sound hs := (h hs.contracts.lists).sound hs

theorem Decides.keeps {s t : State} (h : Decides s t) : Keeps s t := .of_decides h.only fun _ => h

/-- Flags and the registers that a command leaves its answer in are no part of what must be sound. -/
theorem Sound.of_flags {s : State} (h : Sound s) (deficit : Bool) (events evmask : BitVec 10) (cmd : BitVec 8)
    (arg0 arg1 result : Word) (snap : Vector Word 8) (staged : Vector Word 21) :
    Sound { s with deficit, events, evmask, cmd, arg0, arg1, result, snap, staged } where
  contracts := h.contracts.of_same rfl rfl rfl rfl rfl rfl rfl rfl
  config := h.config
  supply := h.supply
  capacity := h.capacity
  covered := h.covered
  supplied n := ⟨(h.supplied n).powered, (h.supplied n).suspended⟩
  clocks := ⟨h.clocks.qual, h.clocks.hold, h.clocks.stall, h.clocks.lastOn⟩
  ports := h.ports

theorem Keeps.raise (e : Event) (s : State) : Keeps s (raise e s) :=
  ⟨raise_undisturbed e s, id, fun _ => id, fun h => h.of_flags ..⟩

theorem Settles.raise (e : Event) (s : State) : Settles s (Machine.raise e s) := ⟨.raise e s, fun _ => id⟩

theorem judgeDeficit_flags (s : State) : ∃ deficit events, judgeDeficit s = { s with deficit, events } :=
  ⟨_, _, judgeDeficit_eq s⟩

theorem Keeps.judge (s : State) : Keeps s (judgeDeficit s) where
  undisturbed := judgeDeficit_undisturbed s
  lists h := h.of_kinds (judgeDeficit_waitQueue s) (judgeDeficit_admission s)
    fun i => by rw [judgeDeficit_entry]; exact ⟨Iff.rfl, rfl, rfl⟩
  supply _ h := by
    obtain ⟨deficit, events, hequal⟩ := judgeDeficit_flags s
    rw [hequal]
    exact h
  sound h := by
    obtain ⟨deficit, events, hequal⟩ := judgeDeficit_flags s
    rw [hequal]
    exact h.of_flags ..

theorem judgeDeficit_flagOk (s : State) : FlagOk (judgeDeficit s) := by
  have hheld := heldTotal_of_table (judgeDeficit_table s)
  rw [FlagOk, hheld, (judgeDeficit_only s).capacity]
  unfold judgeDeficit
  by_cases hover : s.capacity < heldTotal s <;> cases hflag : s.deficit <;> simp [hover, hflag, raise]

/-- An event whose last act is the judging of the flag (R54). -/
theorem Keeps.judged {s t : State} (h : Keeps s t) : Settles s (judgeDeficit t) :=
  ⟨h.trans (.judge t), fun _ _ => judgeDeficit_flagOk t⟩

/-- An event that changes neither H nor C. -/
theorem Keeps.quiet {s t : State} (h : Keeps s t) (hd : t.deficit = s.deficit) (hc : t.capacity = s.capacity)
    (hh : Sound s → heldTotal t = heldTotal s) : Settles s t :=
  ⟨h, fun hs hf => by rw [FlagOk, hd, hc, hh hs]; exact hf⟩

theorem rebalance_keeps (s : State) : Keeps s (rebalance s) := .of_decides (rebalance_only s) rebalance_decides

/-- What an event does to the contracts, with the rebalance and the judging that follow (R54, R55). -/
theorem Keeps.rebalanced {s t : State} (h : Keeps s t) : Settles s (judgeDeficit (rebalance t)) :=
  (h.trans (rebalance_keeps t)).judged

/-! ## Replies and notices -/

/-- The outboxes alone change. -/
theorem Settles.of_outboxes {s t : State} (only : ContractsOnly s t) (ht : t.table = s.table)
    (hw : t.waitQueue = s.waitQueue) (ha : t.admission = s.admission) (hslots : t.slots = s.slots)
    (hinrush : t.inrush = s.inrush) (notices : NoticesOk s → NoticesOk t) : Settles s t :=
  (Decides.of_outboxes only ht hw ha hslots hinrush notices).keeps.quiet only.deficit only.capacity
    fun _ => heldTotal_of_table ht

/-- A reply placed or removed leaves the notices (R101). -/
theorem NoticesOk.of_replies {s t : State} (h : NoticesOk s) (htable : t.table = s.table) (hnext : s.nextItem ≤ t.nextItem)
    (hbox : ∀ n, (t.outbox n).notices = (s.outbox n).notices)
    (hreply : ∀ n, ∀ r ∈ (t.outbox n).reply, r.id < t.nextItem) : NoticesOk t := by
  refine h.of_kept hnext hreply (fun n => by rw [hbox n]) (fun n x _ hof => ?_) fun i hi => ?_
  · rw [entry_of_table htable]
    exact hof
  · rw [entry_of_table htable] at hi ⊢
    exact noticePending_of_kept (fun x hx _ _ => by rw [hbox]; exact hx) (h.2 i hi)

theorem placeReply_settles (n : Slot) (kind : Byte) (st : Status) (named : Option Idx) (gen : BitVec 8)
    (state : EntryState) (held extra : Nat) (s : State) : Settles s (placeReply n kind st named gen state held extra s) := by
  refine .of_outboxes (placeReply_only ..) rfl rfl rfl rfl rfl fun h =>
    h.of_replies rfl (Nat.le_succ _) (fun m => ?_) fun m r hr => ?_
  · show ((s.setOutbox n _).outbox m).notices = _
    rw [outbox_setOutbox]
    split
    · next hm => rw [hm]
    · rfl
  · change r ∈ ((s.setOutbox n _).outbox m).reply at hr
    rw [outbox_setOutbox] at hr
    split at hr
    · obtain rfl := Option.some.inj hr
      exact Nat.lt_succ_self _
    · exact (h.reply_lt hr).trans (Nat.lt_succ_self _)

/-- The slot's reply is removed (R109, R147). -/
theorem setReplyNone_settles (n : Slot) (s : State) : Settles s (s.setOutbox n { s.outbox n with reply := none }) := by
  refine .of_outboxes (setOutbox_only ..) rfl rfl rfl rfl rfl fun h =>
    h.of_replies rfl (Nat.le_refl _) (fun m => ?_) fun m r hr => ?_
  · rw [outbox_setOutbox]
    split
    · next hm => rw [hm]
    · rfl
  · rw [outbox_setOutbox] at hr
    split at hr
    · cases hr
    · exact h.reply_lt hr

end Sys2Proof.Machine
end

section
/-! PROOFS. What every step keeps, continued: the module requests but CLAIM and CONFIRM, and the delivery of records. -/

namespace Sys2Proof.Machine

/-! ## Notices of an entry that changes -/

/-- The outboxes stay and the entry's notices fit it still. -/
theorem NoticesOk.of_fits {s t : State} {i : Idx} {e : Entry} (hs : NoticesOk s)
    (h : ∀ j, t.entry j = if j = i then e else s.entry j)
    (hid : e.slot = (s.entry i).slot ∧ e.gen = (s.entry i).gen ∧ e.tag = (s.entry i).tag)
    (hbox : ∀ m, t.outbox m = s.outbox m) (hnext : t.nextItem = s.nextItem)
    (hfits : ∀ x, noticeFits (s.entry i) x → noticeFits e x) (hopen : e.state ≠ .retired) : NoticesOk t := by
  obtain ⟨hslot, hgen, htag⟩ := hid
  refine hs.of_update h hnext.ge (fun m r hr => ?_) (fun m => ?_) (fun m x hx _ => ?_) (fun m x _ _ hof => ?_)
    (fun hret => absurd hret hopen)
  · rw [hbox m] at hr
    rw [hnext]
    exact hs.reply_lt hr
  · rw [hbox m]
  · rw [hbox m]
    exact hx
  · obtain ⟨hof, hg, ht, hfit⟩ := hof
    exact ⟨hslot.trans hof, hg.trans hgen.symm, ht.trans htag.symm, hfits x hfit⟩

/-- The entry's notice of one kind is removed, and one of another kind fits it still. -/
theorem NoticesOk.of_removed {s t : State} {i : Idx} {e : Entry} {n : Slot} {k : NoticeKind} (hs : NoticesOk s)
    (h : ∀ j, t.entry j = if j = i then e else s.entry j)
    (hid : e.slot = (s.entry i).slot ∧ e.gen = (s.entry i).gen ∧ e.tag = (s.entry i).tag) (hn : (s.entry i).slot = n)
    (hbox : ∀ m, t.outbox m = (removeNotice n i k s).outbox m) (hnext : t.nextItem = s.nextItem)
    (hfits : ∀ x, x.kind ≠ k → noticeFits (s.entry i) x → noticeFits e x) (hopen : e.state ≠ .retired) : NoticesOk t := by
  obtain ⟨hslot, hgen, htag⟩ := hid
  have hremoved (m : Slot) : (t.outbox m).reply = (s.outbox m).reply
      ∧ (t.outbox m).notices = if m = n then (s.outbox m).notices.filter (fun x => !(x.index == i && x.kind == k))
          else (s.outbox m).notices := by
    rw [hbox m, removeNotice, keepNotices_outbox]
    split
    · next hm => rw [hm]; exact ⟨rfl, rfl⟩
    · exact ⟨rfl, rfl⟩
  refine hs.of_update h hnext.ge (fun m r hr => ?_) (fun m => ?_) (fun m x hx hi => ?_) (fun m x hx hi hof => ?_)
    (fun hret => absurd hret hopen)
  · rw [(hremoved m).1] at hr
    rw [hnext]
    exact hs.reply_lt hr
  · rw [(hremoved m).2]
    split
    · exact List.filter_sublist
    · exact List.Sublist.refl _
  · rw [(hremoved m).2]
    split
    · exact List.mem_filter.mpr ⟨hx, by simp [hi]⟩
    · exact hx
  · obtain ⟨hof, hg, ht, hfit⟩ := hof
    rw [(hremoved m).2, if_pos (hof.symm.trans hn), List.mem_filter] at hx
    refine ⟨hslot.trans hof, hg.trans hgen.symm, ht.trans htag.symm, hfits x (fun hk => ?_) hfit⟩
    simp [hi, hk] at hx

/-! ## Replies (R101, R120) -/

theorem refuse_settles (n : Slot) (msg : List Byte) (st : Status) (s : State) : Settles s (refuse n msg st s) :=
  placeReply_settles ..

theorem replyEntry_settles (n : Slot) (msg : List Byte) (st : Status) (i : Idx) (extra : Nat) (s : State) :
    Settles s (replyEntry n msg st i extra s) := placeReply_settles ..

theorem wrongState_settles (n : Slot) (msg : List Byte) (i : Idx) (s : State) : Settles s (wrongState n msg i s) :=
  replyEntry_settles ..

theorem handleCheck_slot {s : State} {n : Slot} {msg : List Byte} {i : Idx} (h : handleCheck s n msg = .ok i) :
    (s.entry i).slot = n := by
  unfold handleCheck at h
  split at h
  · cases h
  · split at h
    · next hn =>
      obtain rfl := Except.ok.inj h
      exact hn
    · cases h

theorem onHandle_settles (k : Kind) (n : Slot) (msg : List Byte) {act : Idx → State → State} {s : State}
    (h : ∀ i, refusalOf s k n msg = none → (s.entry i).slot = n → Settles s (act i s)) : Settles s (onHandle k n msg act s) := by
  unfold onHandle
  split
  · exact refuse_settles ..
  · next hnone =>
    split
    · exact refuse_settles ..
    · next hi => exact h _ hnone (handleCheck_slot hi)

/-! ## Entries that no one else is told of -/

/-- The entry keeps its kind, slot, class and lists, and only notices of its own are removed. -/
theorem Decides.of_entry {s t : State} {i : Idx} {e : Entry}
    (ht : t = { s with table := t.table, outboxes := t.outboxes }) (h : ∀ j, t.entry j = if j = i then e else s.entry j)
    (hkind : SameKind (s.entry i).state e.state) (hslot : e.slot = (s.entry i).slot) (htag : e.tag = (s.entry i).tag)
    (hcls : e.cls = (s.entry i).cls) (entries : EntryOk (s.entry i) → EntryOk e)
    (ahead : EntryAhead s (s.entry i) → EntryAhead s e) (notices : NoticesOk s → NoticesOk t)
    (covered : EntriesOk s → Covered s → Covered t) : Decides s t :=
  .of_sameKind (by rw [ht]; constructor <;> rfl) h (by rw [ht]) (by rw [ht]) (by rw [ht]) (by rw [ht]) hkind hslot htag hcls
    entries ahead notices covered

/-! ## ADJUST (R85 to R89) -/

theorem adjust_levels {msg : List Byte} (h : fieldsInRange .adjust msg = true) :
    1 ≤ adjustFloor msg ∧ adjustFloor msg ≤ adjustRequested msg ∧ adjustRequested msg ≤ 1023 := by
  obtain ⟨-, hhigh, hlow, hle⟩ := of_decide_eq_true (show decide _ = true from h)
  exact ⟨hlow, hle, hhigh⟩

theorem EntryOk.releveled {e : Entry} (h : EntryOk e) (hs : e.state = .waiting) {r f : Nat} (hf : 1 ≤ f) (hfr : f ≤ r)
    (hr : r ≤ 1023) : EntryOk { e with requested := r, floor := f } := by
  obtain ⟨-, -, -, hheld, -, -, -, htarget, hcause, hdeadline, hperiod, hlease⟩ := h
  simp_all [EntryOk, isAdmitted, countsLease]

theorem adjustWaiting_settles {n : Slot} {msg : List Byte} {i : Idx} {s : State} (hst : (s.entry i).state = .waiting)
    (hf : fieldsInRange .adjust msg = true) : Settles s (adjustWaiting n msg i s) := by
  obtain ⟨hlow, hle, hhigh⟩ := adjust_levels hf
  have hentry (j : Idx) := entry_setEntry s i j
    { s.entry i with requested := adjustRequested msg, floor := adjustFloor msg }
  have hset : Decides s (s.setEntry i { s.entry i with requested := adjustRequested msg, floor := adjustFloor msg }) :=
    .of_entry rfl hentry (.refl _) rfl rfl rfl (fun he => he.releveled hst hlow hle hhigh) (fun h => h)
      (fun hn => hn.of_fits hentry ⟨rfl, rfl, rfl⟩ (fun _ => rfl) rfl (fun _ hx => hx) (by simp [hst]))
      fun _ => .of_update rfl hentry (Nat.le_refl _)
  exact (hset.keeps.trans (replyEntry_settles ..).toKeeps).rebalanced

theorem adjustedEntry_kind {e : Entry} {r f h : Nat} (hs : e.state = .enabling ∨ e.state = .active ∨ e.state = .reduced) :
    SameKind e.state (adjustedEntry e r f h).state := by
  unfold adjustedEntry
  rcases hs with hs | hs | hs
  · simp only [hs, if_true]
    exact .refl _
  all_goals
    simp only [hs, reduceCtorEq, if_false]
    split <;> exact .of_live rfl rfl

theorem adjustedEntry_state (e : Entry) (r f h : Nat) :
    (adjustedEntry e r f h).state = .enabling ∧ e.state = .enabling
    ∨ (adjustedEntry e r f h).state = .active ∧ h = r ∨ (adjustedEntry e r f h).state = .reduced ∧ h ≠ r := by
  unfold adjustedEntry
  split
  · next hs => exact .inl ⟨rfl, hs⟩
  · dsimp only
    split
    · next hr => exact .inr (.inl ⟨rfl, hr⟩)
    · next hr => exact .inr (.inr ⟨rfl, hr⟩)

/-- The level of R87 lies between the new floor and the new requested level. -/
theorem adjustedLevel_mem {r f h avail level : Nat} (hfr : f ≤ r) (hl : adjustedLevel r f h avail = some level) :
    f ≤ level ∧ level ≤ r := by
  unfold adjustedLevel at hl
  split at hl
  · obtain rfl := Option.some.inj hl
    exact ⟨hfr, le_rfl⟩
  · split at hl
    · obtain rfl := Option.some.inj hl
      omega
    · cases hl

theorem EntryOk.adjusted {e : Entry} (h : EntryOk e) (hs : e.state = .enabling ∨ e.state = .active ∨ e.state = .reduced)
    {r f level : Nat} (hf : 1 ≤ f) (hfr : f ≤ r) (hr : r ≤ 1023) (hlow : f ≤ level) (hhigh : level ≤ r) :
    EntryOk (adjustedEntry e r f level) := by
  obtain ⟨-, -, -, -, -, -, -, htarget, hcause, hdeadline, hperiod, hlease⟩ := h
  have hcounts : countsLease e.state = true := by rcases hs with hs | hs | hs <;> rw [hs] <;> rfl
  have hnoTarget : e.target = none := by
    rw [← Option.not_isSome_iff_eq_none, htarget]
    rcases hs with hs | hs | hs <;> simp [hs]
  have hnoCause : e.cause = none := by
    rw [← Option.not_isSome_iff_eq_none, hcause]
    rcases hs with hs | hs | hs <;> simp [hs]
  have hnoDeadline : e.deadline = none := by
    rw [← Option.not_isSome_iff_eq_none, hdeadline]
    rcases hs with hs | hs | hs <;> simp [hs]
  rw [hcounts] at hperiod
  rcases adjustedEntry_state e r f level with ⟨hst, -⟩ | ⟨hst, hl⟩ | ⟨hst, hl⟩ <;>
    simp_all [EntryOk, adjustedEntry, isAdmitted, countsLease]
  omega

/-- Of an ENABLING, ACTIVE or REDUCED entry no notice but a RESTORE or a LEASE_WARN can be pending (R106). -/
theorem noticeFits_powered {e : Entry} {x : Notice} (hs : e.state = .enabling ∨ e.state = .active ∨ e.state = .reduced)
    (h : noticeFits e x) : x.kind = .restore ∨ x.kind = .leaseWarn ∧ e.period.isSome = true ∧ x.level = 0 := by
  cases hk : x.kind <;> simp only [noticeFits, hk] at h
  case restore => exact .inl rfl
  case leaseWarn => exact .inr ⟨rfl, h.2⟩
  all_goals rcases hs with hs | hs | hs <;> simp [hs] at h

theorem pendingOf_zero {e : Entry} (h1 : e.state ≠ .reducing) (h2 : e.state ≠ .revoking) : pendingOf e = 0 := by
  unfold pendingOf
  cases h : e.state <;> simp_all

/-- The entry adjusted, and its RESTORE notice gone (R88, R89). -/
theorem adjusted_decides {n : Slot} {i : Idx} {s : State} {r f level : Nat}
    (hst : (s.entry i).state = .enabling ∨ (s.entry i).state = .active ∨ (s.entry i).state = .reduced)
    (hn : (s.entry i).slot = n) (hf : 1 ≤ f) (hfr : f ≤ r) (hr : r ≤ 1023)
    (hl : adjustedLevel r f (s.entry i).held (availableRaise s) = some level) :
    Decides s (removeNotice n i .restore (s.setEntry i (adjustedEntry (s.entry i) r f level))) := by
  have hentry (j : Idx) := entry_setEntry s i j (adjustedEntry (s.entry i) r f level)
  have hkind := adjustedEntry_kind (r := r) (f := f) (h := level) hst
  have hne := adjustedEntry_state_ne (s.entry i) r f level
  obtain ⟨hlow, hhigh⟩ := adjustedLevel_mem hfr hl
  have hcounts : countsLease (adjustedEntry (s.entry i) r f level).state = true := by
    rcases adjustedEntry_state (s.entry i) r f level with ⟨h, -⟩ | ⟨h, -⟩ | ⟨h, -⟩ <;> rw [h] <;> rfl
  refine .of_entry rfl hentry hkind rfl rfl rfl (fun he => he.adjusted hst hf hfr hr hlow hhigh) (fun h => h)
    (fun hs => hs.of_removed hentry ⟨rfl, rfl, rfl⟩ hn (fun _ => rfl) rfl (fun x hk hx => ?_) ?_) fun he hc => ?_
  · obtain ⟨hwarn, hperiod, hlevel⟩ := (noticeFits_powered hst hx).resolve_left hk
    simp only [noticeFits, hwarn]
    exact ⟨hcounts, hperiod, hlevel⟩
  · intro hret
    rw [hret] at hcounts
    cases hcounts
  · have hpending : pendingOf (s.entry i) = 0 := by
      refine pendingOf_zero ?_ ?_ <;> rcases hst with h | h | h <;> simp [h]
    rcases Nat.lt_or_ge (s.entry i).held level with hraise | hlower
    · have hle := adjustedLevel_le hl
      have havail : availableRaise s ≤ headroom s := by
        unfold availableRaise
        split
        · exact le_rfl
        · exact Nat.zero_le _
      refine covered_of_le (heldTotal_raised (s := s) rfl hentry ?_ (covered_of_headroom ?_))
      · show level ≤ _
        omega
      · omega
    · refine Covered.of_update (s := s) rfl hentry ?_ hc
      rw [hpending]
      exact hlower.trans (Nat.le_add_right _ _)

theorem adjustPowered_settles {n : Slot} {msg : List Byte} {i : Idx} {s : State}
    (hst : (s.entry i).state = .enabling ∨ (s.entry i).state = .active ∨ (s.entry i).state = .reduced)
    (hn : (s.entry i).slot = n) (hf : fieldsInRange .adjust msg = true) : Settles s (adjustPowered n msg i s) := by
  obtain ⟨hlow, hle, hhigh⟩ := adjust_levels hf
  cases hl : adjustedLevel (adjustRequested msg) (adjustFloor msg) (s.entry i).held (availableRaise s) with
  | none =>
    rw [adjustPowered_refused hl]
    exact replyEntry_settles ..
  | some level =>
    rw [adjustPowered_accepted hl]
    have hkeeps : Keeps s (adjustedAndAnswered n msg i level s) :=
      (adjusted_decides hst hn hlow hle hhigh hl).keeps.trans (placeReply_settles ..).toKeeps
    exact (hkeeps.trans (.ite (fun _ => rebalance_keeps _) fun _ => .refl _)).judged

theorem takeAdjust_settles {n : Slot} {msg : List Byte} {i : Idx} {s : State} (hn : (s.entry i).slot = n)
    (hf : fieldsInRange .adjust msg = true) : Settles s (takeAdjust n msg i s) := by
  unfold takeAdjust
  split
  · next hst => exact adjustWaiting_settles hst hf
  · next hst => exact adjustPowered_settles (.inl hst) hn hf
  · next hst => exact adjustPowered_settles (.inr (.inl hst)) hn hf
  · next hst => exact adjustPowered_settles (.inr (.inr hst)) hn hf
  all_goals exact wrongState_settles ..

/-! ## COMPLY (R70) -/

theorem EntryOk.target_getD {e : Entry} (h : EntryOk e) (hs : e.state = .reducing) :
    e.floor ≤ e.target.getD e.held ∧ e.target.getD e.held < e.held := by
  obtain ⟨-, -, -, -, -, -, hlevels, htarget, -⟩ := h
  have hlevels := hlevels hs
  obtain ⟨x, hx⟩ := Option.isSome_iff_exists.mp (htarget.mpr hs)
  simpa [hx] using hlevels

theorem EntryOk.complied {e : Entry} (h : EntryOk e) (hs : e.state = .reducing) :
    EntryOk (compliedEntry e (e.target.getD e.held)) := by
  obtain ⟨hfloor, hlt⟩ := h.target_getD hs
  obtain ⟨-, hlevels, hadm, -, -, -, -, htarget, hcause, -, hperiod, hlease⟩ := h
  have hle := (hadm (by rw [hs]; rfl)).2
  simp_all [EntryOk, compliedEntry, isAdmitted, countsLease]
  omega

/-- Of a REDUCING entry no notice but a REDUCE or a LEASE_WARN can be pending (R106). -/
theorem noticeFits_reducing {e : Entry} {x : Notice} (hs : e.state = .reducing) (h : noticeFits e x) :
    x.kind = .reduce ∨ x.kind = .leaseWarn ∧ e.period.isSome = true ∧ x.level = 0 := by
  cases hk : x.kind <;> simp_all [noticeFits]

theorem complied_decides {n : Slot} {i : Idx} {s : State} (hst : (s.entry i).state = .reducing) (hn : (s.entry i).slot = n) :
    Decides s (removeNotice n i .reduce
      (s.setEntry i (compliedEntry (s.entry i) ((s.entry i).target.getD (s.entry i).held)))) := by
  have hentry (j : Idx) := entry_setEntry s i j (compliedEntry (s.entry i) ((s.entry i).target.getD (s.entry i).held))
  refine .of_entry rfl hentry (.of_live (by rw [hst]; rfl) rfl) rfl rfl rfl (fun he => he.complied hst)
    (.of_timers (ahead_none s) (.inr ⟨rfl, rfl⟩))
    (fun hs => hs.of_removed hentry ⟨rfl, rfl, rfl⟩ hn (fun _ => rfl) rfl (fun x hk hx => ?_) (by simp [compliedEntry]))
    fun he => .of_update rfl hentry ?_
  · obtain ⟨hwarn, hperiod, hlevel⟩ := (noticeFits_reducing hst hx).resolve_left hk
    simp only [noticeFits, hwarn]
    exact ⟨rfl, hperiod, hlevel⟩
  · have hlt := ((he i).target_getD hst).2
    simp only [pendingOf, hst, compliedEntry]
    omega

theorem takeComply_settles {n : Slot} {msg : List Byte} {i : Idx} {s : State} (hn : (s.entry i).slot = n) :
    Settles s (takeComply n msg i s) := by
  unfold takeComply
  dsimp only
  split
  · next hst =>
    split
    · exact replyEntry_settles ..
    · exact ((complied_decides hst hn).keeps.trans (replyEntry_settles ..).toKeeps).rebalanced
  all_goals exact wrongState_settles ..

/-! ## RENEW (R95) -/

theorem EntryOk.renewed {e : Entry} (h : EntryOk e) (hs : countsLease e.state = true) (s : State) :
    EntryOk { e with period := newPeriod s e.lease } := by
  obtain ⟨hfree, hlevels, hadm, hheld, hactive, hreduced, hreducing, htarget, hcause, hdeadline, -, hlease⟩ := h
  refine ⟨fun hf => absurd hf (countsLease_alive hs), hlevels, hadm, hheld, hactive, hreduced, hreducing, htarget, hcause,
    hdeadline, ?_, hlease⟩
  simp only [newPeriod, hs, true_and]
  split <;> simp_all

theorem renewed_decides {n : Slot} {i : Idx} {s : State} (hcounts : countsLease (s.entry i).state = true)
    (hn : (s.entry i).slot = n) :
    Decides s (removeNotice n i .leaseWarn (s.setEntry i { s.entry i with period := newPeriod s (s.entry i).lease })) := by
  have hentry (j : Idx) := entry_setEntry s i j { s.entry i with period := newPeriod s (s.entry i).lease }
  refine .of_entry rfl hentry (.refl _) rfl rfl rfl (fun he => he.renewed hcounts s)
    (fun h => newPeriod_ahead s h.1 rfl)
    (fun hs => hs.of_removed hentry ⟨rfl, rfl, rfl⟩ hn (fun _ => rfl) rfl (fun x hk hx => ?_) fun hret => ?_)
    fun _ => .of_update rfl hentry (Nat.le_refl _)
  · cases hkind : x.kind <;> simp_all [noticeFits]
  · have hret : (s.entry i).state = .retired := hret
    rw [hret] at hcounts
    cases hcounts

theorem takeRenew_settles {n : Slot} {msg : List Byte} {i : Idx} {s : State} (hn : (s.entry i).slot = n) :
    Settles s (takeRenew n msg i s) := by
  refine .ite (fun h => ?_) fun _ => wrongState_settles ..
  have hcounts := (Bool.and_eq_true_iff.mp h).1
  have hset := (renewed_decides hcounts hn).keeps.quiet rfl rfl fun _ => ?_
  · exact hset.trans (replyEntry_settles ..)
  · have hheld := heldTotal_change (s := s) (t := s.setEntry i { s.entry i with period := newPeriod s (s.entry i).lease }) i
      fun j hj => entry_setEntry_ne s _ hj
    rw [entry_setEntry_same] at hheld
    exact Nat.add_right_cancel hheld

/-! ## RELEASE and QUERY (R21, R97) -/

theorem takeRelease_settles (n : Slot) (msg : List Byte) (i : Idx) (s : State) : Settles s (takeRelease n msg i s) :=
  ((freeEntry_decides i s).keeps.trans (placeReply_settles ..).toKeeps).rebalanced

theorem handleQuery_settles (n : Slot) (msg : List Byte) (s : State) : Settles s (handleQuery n msg s) := by
  unfold handleQuery takeQuery
  split
  · exact refuse_settles ..
  · split
    · exact refuse_settles ..
    · exact replyEntry_settles ..

/-! ## Delivery (R109, R111) -/

theorem deliverReply_settles (n : Slot) (id : Nat) (s : State) : Settles s (deliverReply n id s) := by
  unfold deliverReply
  split
  · exact .refl s
  · exact .ite (fun _ => setReplyNone_settles n s) fun _ => .refl s

/-- The notices without one of them. -/
theorem OutboxOk.mem_of_ne {s : State} {n : Slot} (h : OutboxOk s n) {x y : Notice} (hx : x ∈ (s.outbox n).notices)
    (hy : y ∈ (s.outbox n).notices) (hne : y ≠ x) : y ∈ (s.outbox n).notices.filter (fun z => z.id != x.id) := by
  refine List.mem_filter.mpr ⟨hy, ?_⟩
  have hnodup : ((s.outbox n).notices.map Notice.id).Nodup := List.pairwise_map.mpr (h.1.imp And.right)
  simpa using fun hid => hne (List.inj_on_of_nodup_map hnodup hy hx hid)

theorem keepNotices_reply (n m : Slot) (p : Notice → Bool) (s : State) :
    ((keepNotices n p s).outbox m).reply = (s.outbox m).reply := by
  rw [keepNotices_outbox]
  split
  · next hm => rw [hm]
  · rfl

theorem keepNotices_sublist (n m : Slot) (p : Notice → Bool) (s : State) :
    ((keepNotices n p s).outbox m).notices.Sublist (s.outbox m).notices := by
  rw [keepNotices_outbox]
  split
  · next hm => rw [hm]; exact List.filter_sublist
  · exact List.Sublist.refl _

/-- A notice other than a CLOSED one is removed (R109). -/
theorem dropDelivered_settles {n : Slot} {x : Notice} {s : State} (hx : x ∈ (s.outbox n).notices) (hk : x.kind ≠ .closed) :
    Settles s (keepNotices n (fun y => y.id != x.id) s) := by
  refine .of_outboxes (keepNotices_only ..) rfl rfl rfl rfl rfl fun h =>
    h.of_kept (Nat.le_refl _) (fun m r hr => ?_) (keepNotices_sublist n · _ s) (fun _ _ _ hof => hof) fun i hi => ?_
  · rw [keepNotices_reply] at hr
    exact h.reply_lt hr
  · refine noticePending_of_kept (fun y hy _ hyk => ?_) (h.2 i hi)
    rw [keepNotices_outbox]
    split
    · next hm =>
      rw [hm] at hy
      exact (h.1 n).mem_of_ne hx hy fun hyx => hk (hyx ▸ hyk)
    · exact hy

/-- A CLOSED notice is removed and its entry freed (R111). -/
theorem freeDelivered_decides {n : Slot} {x : Notice} {s : State} (hx : x ∈ (s.outbox n).notices) :
    Decides s (freeEntry x.index (keepNotices n (fun y => y.id != x.id) s)) := by
  have hfree := freeEntry_decides x.index (keepNotices n (fun y => y.id != x.id) s)
  have hentry (j : Idx) : (freeEntry x.index (keepNotices n (fun y => y.id != x.id) s)).entry j
      = if j = x.index then { blankEntry with gen := (s.entry x.index).gen + 1 } else s.entry j := freeEntry_entry ..
  have hneed : NeedLost s (freeEntry x.index (keepNotices n (fun y => y.id != x.id) s)) x.index :=
    freeEntry_needLost x.index (keepNotices n (fun y => y.id != x.id) s)
  have hnext : (freeEntry x.index (keepNotices n (fun y => y.id != x.id) s)).nextItem = s.nextItem := freeEntry_nextItem ..
  have hbox := freeEntry_outbox x.index (keepNotices n (fun y => y.id != x.id) s)
  refine .of_needLost ((keepNotices_only ..).trans hfree.only) hentry hneed rfl rfl (fun h => absurd rfl h)
    (fun h => by cases h) (fun _ => by simp [EntryOk, blankEntry, isAdmitted, countsLease])
    (fun _ => ⟨ahead_none _, fun p hp => by cases hp⟩)
    (.of_left hentry (freeEntry_waitQueue ..) (freeEntry_admission ..) (by simp [blankEntry]) rfl)
    fun hs => hs.of_update hentry hnext.ge (fun m r hr => ?_) (fun m => ?_) (fun m y hy hi => ?_) (fun m y hy hi hof => ?_)
      (fun h => by cases h)
  · have hreply : ((freeEntry x.index (keepNotices n (fun y => y.id != x.id) s)).outbox m).reply = (s.outbox m).reply := by
      rw [hbox m, ← keepNotices_reply n m (fun y => y.id != x.id) s]
      split <;> rfl
    rw [hreply] at hr
    rw [hnext]
    exact hs.reply_lt hr
  · refine List.Sublist.trans ?_ (keepNotices_sublist n m (fun y => y.id != x.id) s)
    rw [hbox m]
    split
    · exact List.filter_sublist
    · exact List.Sublist.refl _
  · have hkept : y ∈ ((keepNotices n (fun y => y.id != x.id) s).outbox m).notices := by
      rw [keepNotices_outbox]
      split
      · next hm =>
        rw [hm] at hy
        exact (hs.1 n).mem_of_ne hx hy fun hyx => hi (by rw [hyx])
      · exact hy
    rw [hbox m]
    split
    · exact List.mem_filter.mpr ⟨hkept, by simpa using hi⟩
    · exact hkept
  · rw [hbox m, keepNotices_entry, if_pos hof.1.symm] at hy
    simp [hi] at hy

theorem deliverNotice_settles (n : Slot) (id : Nat) (s : State) : Settles s (deliverNotice n id s) := by
  cases hfind : (s.outbox n).notices.find? (fun x => x.id == id) with
  | none =>
    simp only [deliverNotice, hfind]
    exact .refl s
  | some x =>
    have hx := List.mem_of_find?_eq_some hfind
    have hid : x.id = id := by simpa using List.find?_some hfind
    subst hid
    simp only [deliverNotice, hfind]
    refine .ite (fun hk => ?_) fun hk => dropDelivered_settles hx hk
    have hdecides := freeDelivered_decides hx
    refine hdecides.keeps.quiet hdecides.only.deficit hdecides.only.capacity fun hs => ?_
    obtain ⟨-, -, -, hfits⟩ := hs.contracts.notices.noticeOf hx
    have hretired : (s.entry x.index).state = .retired := by
      simp only [noticeFits, hk] at hfits
      exact hfits.1
    have hnothing := (hs.contracts.entries x.index).2.2.2.1 (by rw [hretired]; rfl)
    have hheld := heldTotal_change (s := s) (t := freeEntry x.index (keepNotices n (fun y => y.id != x.id) s)) x.index
      fun j hj => by rw [freeEntry_entry, if_neg hj]; rfl
    rw [freeEntry_entry, if_pos rfl, hnothing] at hheld
    exact Nat.add_right_cancel (m := 0) hheld

theorem deliver_settles (item : StagedItem) (s : State) : Settles s (deliver item s) := by
  cases item with
  | nothing => exact .refl s
  | reply n id => exact deliverReply_settles n id s
  | notice n id => exact deliverNotice_settles n id s

end Sys2Proof.Machine
end

section
/-! PROOFS. What every step keeps, continued: CLAIM and CONFIRM, and every message. -/

namespace Sys2Proof.Machine

/-! ## CLAIM (R25 to R30) -/

/-- What the checks before the recording of a claim have found (R25, R122, R123). -/
structure ClaimTaken (s : State) (n : Slot) (f : ClaimFields) (i : Idx) : Prop where
  floor : 1 ≤ f.floor ∧ f.floor ≤ f.requested ∧ f.requested ≤ 1023
  lease : f.lease ≤ 65535
  seated : (s.slotRec n).seated = true
  usable : (s.slotRec n).state ≠ .blocked ∧ (s.slotRec n).state ≠ .tripped
  tag : ¬ HoldsTag s n f.tag
  room : countWhere s (ofSlot n) < 4
  free : (s.entry i).state = .free

theorem claim_levels {msg : List Byte} (h : fieldsInRange .claim msg = true) :
    1 ≤ (claimFields msg).floor ∧ (claimFields msg).floor ≤ (claimFields msg).requested ∧ (claimFields msg).requested ≤ 1023 := by
  obtain ⟨-, hlevels⟩ := Bool.and_eq_true_iff.mp h
  obtain ⟨-, hhigh, hlow, hle⟩ := of_decide_eq_true (show decide _ = true from hlevels)
  exact ⟨hlow, hle, hhigh⟩

theorem wordOf_le (a b : Byte) : wordOf a b ≤ 65535 := by
  have ha := a.isLt
  have hb := b.isLt
  unfold wordOf
  omega

theorem refusalOf_claim {s : State} {n : Slot} {msg : List Byte} (h : refusalOf s .claim n msg = none) :
    (s.slotRec n).seated = true ∧ (s.slotRec n).state ≠ .blocked ∧ (s.slotRec n).state ≠ .tripped := by
  unfold refusalOf at h
  split at h
  · cases h
  split at h
  · cases h
  split at h
  · cases h
  split at h
  · cases h
  next hseated =>
    rw [if_pos rfl, slotRefusal] at h
    refine ⟨by simpa using hseated, fun hst => ?_, fun hst => ?_⟩ <;> rw [hst] at h <;> cases h

theorem claimCheck_taken {s : State} {n : Slot} {f : ClaimFields} {i : Idx} (h : claimCheck s n f = .ok i) :
    ¬ HoldsTag s n f.tag ∧ countWhere s (ofSlot n) < 4 ∧ (s.entry i).state = .free := by
  unfold claimCheck at h
  split at h
  · cases h
  next htag =>
    split at h
    · cases h
    next hroom =>
      split at h
      · cases h
      next k hk =>
        split at h
        · cases h
        obtain rfl := Except.ok.inj h
        have hmem := (mem_entriesWhere s _ k).mp (List.mem_of_mem_head? hk)
        exact ⟨(findTag_isSome_iff ..).not.mp htag, Nat.not_le.mp hroom, by simpa using hmem⟩

theorem claimTaken_of_checks {s : State} {n : Slot} {msg : List Byte} {i : Idx} (h : refusalOf s .claim n msg = none)
    (hi : claimCheck s n (claimFields msg) = .ok i) : ClaimTaken s n (claimFields msg) i := by
  obtain ⟨hseated, husable⟩ := refusalOf_claim h
  obtain ⟨htag, hroom, hfree⟩ := claimCheck_taken hi
  exact ⟨claim_levels (fieldsInRange_of_refusalOf h), wordOf_le .., hseated, husable, htag, hroom, hfree⟩

/-- One entry more counts one more. -/
theorem countWhere_le_succ {s t : State} {i : Idx} (h : ∀ j, j ≠ i → t.entry j = s.entry j) (p : Entry → Bool) :
    countWhere t p ≤ countWhere s p + 1 := by
  have hsub : entriesWhere t p ⊆ i :: entriesWhere s p := fun j hj => by
    by_cases hji : j = i
    · exact hji ▸ List.mem_cons_self
    · rw [mem_entriesWhere, h j hji] at hj
      exact List.mem_cons_of_mem _ ((mem_entriesWhere s p j).mpr hj)
  exact (List.subperm_of_subset (nodup_entriesWhere t p) hsub).length_le

section
variable {s t : State} {n : Slot} {f : ClaimFields} {i : Idx} {e : Entry} (hc : ClaimTaken s n f i)
  (h : ∀ j, t.entry j = if j = i then e else s.entry j) (hslot : e.slot = n) (htag : e.tag = f.tag)
include hc h hslot htag

theorem ClaimTaken.limits (hs : SlotLimits s) : SlotLimits t := by
  have hrest (j : Idx) (hj : j ≠ i) : t.entry j = s.entry j := by rw [h j, if_neg hj]
  have hself : t.entry i = e := by rw [h i, if_pos rfl]
  have hnew (j : Idx) (hj : j ≠ i) (halive : (s.entry j).state ≠ .free) : ¬ ((s.entry j).slot = n ∧ (s.entry j).tag = f.tag) :=
    fun ⟨hn, ht⟩ => hc.tag ⟨j, halive, hn, ht⟩
  refine ⟨fun m => ?_, fun j k hj hk hsl hta => ?_⟩
  · by_cases hm : m = n
    · subst hm
      have hle := countWhere_le_succ hrest (ofSlot m)
      have hroom := hc.room
      omega
    · refine (countWhere_le_countWhere fun j hj => ?_).trans (hs.1 m)
      by_cases hji : j = i
      · rw [hji, hself] at hj
        exact absurd ((ofSlot_slot hj).symm.trans hslot) hm
      · rw [hrest j hji] at hj
        exact hj
  · by_cases hji : j = i <;> by_cases hki : k = i
    · rw [hji, hki]
    · rw [hrest k hki] at hk hsl hta
      rw [hji, hself] at hsl hta
      exact absurd ⟨hsl.symm.trans hslot, hta.symm.trans htag⟩ (hnew k hki hk)
    · rw [hrest j hji] at hj hsl hta
      rw [hki, hself] at hsl hta
      exact absurd ⟨hsl.trans hslot, hta.trans htag⟩ (hnew j hji hj)
    · rw [hrest j hji] at hj hsl hta
      rw [hrest k hki] at hk hsl hta
      exact hs.2 j k hj hk hsl hta

omit htag in
theorem ClaimTaken.slots (hslots : t.slots = s.slots) (hinrush : t.inrush = s.inrush) (hneed : needsPower e.state = false)
    (hs : SlotsCore s) : SlotsCore t := by
  have hrec (m : Slot) : t.slotRec m = s.slotRec m := slotRec_of_slots hslots m
  have hsame (m : Slot) : hasNeed t m = hasNeed s m := by
    rw [Bool.eq_iff_iff, hasNeed_of_others h hneed, hasNeed_iff]
    refine ⟨fun ⟨j, _, hj⟩ => ⟨j, hj⟩, fun ⟨j, hj, hp⟩ => ⟨j, fun hji => ?_, hj, hp⟩⟩
    rw [hji, hc.free] at hp
    cases hp
  have hother (m : Slot) (j : Idx) (hj : ofSlot m (t.entry j) = true) (hm : m ≠ n) : ofSlot m (s.entry j) = true
      ∧ ((s.slotRec m).state = .on → (t.entry j).state = .enabling → (s.entry j).state = .enabling)
      ∧ (isStanding (t.entry j).state = true → isStanding (s.entry j).state = true) := by
    rw [h j] at hj ⊢
    split at hj
    · exact absurd ((ofSlot_slot hj).symm.trans hslot) hm
    · next hji => rw [if_neg hji]; exact ⟨hj, fun _ => id, id⟩
  refine ⟨fun m => ?_, hinrush ▸ hs.nodup, ?_⟩
  · have hcore := hs.slot m
    by_cases hm : m = n
    case neg => exact hcore.of_entries (hrec m) (by rw [hinrush]) (hsame m) fun j hj => hother m j hj hm
    subst hm
    exact
      { switch := by rw [hrec]; exact hcore.switch
        key := by rw [hrec]; exact hcore.key
        inrush := by rw [hrec, hinrush]; exact hcore.inrush
        need := by rw [hrec, hsame]; exact hcore.need
        energized := fun hon j hj hst => by
          rw [hrec] at hon
          rw [h j] at hj hst
          split at hst
          · rw [hst] at hneed
            cases hneed
          · next hji =>
            rw [if_neg hji] at hj
            exact hcore.energized hon j hj hst
        unseated := by rw [hrec]; exact hcore.unseated
        empty := by rw [hrec]; exact hcore.empty
        vacant := fun hseat => by rw [hrec, hc.seated] at hseat; cases hseat
        cleared := fun hst => by
          rw [hrec] at hst
          exact absurd hst (not_or.mpr ⟨hc.usable.2, hc.usable.1⟩)
        timed := by rw [hrec]; exact hcore.timed
        cooling := by rw [hrec]; exact hcore.cooling
        trips := by rw [hrec]; exact hcore.trips
        tripLimit := by rw [hrec]; exact hcore.tripLimit }
  · rw [hinrush]
    exact hs.ordered.imp fun {m k} hmk => by rw [hrec, hrec]; exact hmk

omit h hslot htag in
/-- Of a FREE entry no notice is pending (R8). -/
theorem ClaimTaken.notices (hs : NoticesOk s) (h : ∀ j, t.entry j = if j = i then e else s.entry j)
    (hbox : t.outboxes = s.outboxes) (hnext : t.nextItem = s.nextItem) (hopen : e.state ≠ .retired) : NoticesOk t := by
  refine hs.of_update h hnext.ge (fun m r hr => ?_) (fun m => ?_) (fun m x hx _ => ?_) (fun m x _ _ hof => ?_)
    (fun hret => absurd hret hopen)
  · rw [outbox_of_outboxes hbox] at hr
    rw [hnext]
    exact hs.reply_lt hr
  · rw [outbox_of_outboxes hbox]
  · rw [outbox_of_outboxes hbox]
    exact hx
  · exact absurd hc.free (noticeFits_alive hof.2.2.2)

end

/-- The entry as the claim recorded it, OFFERED or WAITING. -/
theorem ClaimTaken.sound {s t : State} {n : Slot} {f : ClaimFields} {i : Idx} {e : Entry} (hc : ClaimTaken s n f i)
    (h : ∀ j, t.entry j = if j = i then e else s.entry j) (only : ContractsOnly s t)
    (hslot : e.slot = n) (htag : e.tag = f.tag) (hslots : t.slots = s.slots) (hinrush : t.inrush = s.inrush)
    (hbox : t.outboxes = s.outboxes) (hnext : t.nextItem = s.nextItem) (hneed : needsPower e.state = false)
    (hopen : e.state ≠ .retired) (hok : EntryOk e) (hahead : EntryAhead s e) (hlists : ListsOk s → ListsOk t)
    (hadmits : isAdmitted e.state = true → s.supply = .operating) (hcovered : EntriesOk s → Covered s → Covered t)
    (hs : Sound s) : Sound t := by
  refine hs.of_only only ?_ (fun j hj => ?_) (hcovered hs.contracts.entries hs.covered)
    fun m => (hs.supplied m).of_rec only.supply (.inl (slotRec_of_slots hslots m))
  · have hcs := hs.contracts
    exact ⟨.of_update h (fun _ => hok) hcs.entries, .of_update only.now h (fun _ => hahead) hcs.ahead, hlists hcs.lists,
      hc.limits h hslot htag hcs.limits, hc.notices hcs.notices h hbox hnext hopen,
      hc.slots h hslot hslots hinrush hneed hcs.slots,
      fun m => by rw [slotRec_of_slots hslots]; exact (hcs.slotsAhead m).of_now only.now⟩
  · rw [h j] at hj
    split at hj
    · exact .inr (hadmits hj)
    · exact .inl hj

theorem recordedEntry_ok {e : Entry} {n : Slot} {f : ClaimFields} {i : Idx} {s : State} (hc : ClaimTaken s n f i) :
    EntryOk { recordedEntry e n f with state := .waiting } := by
  obtain ⟨hlow, hle, hhigh⟩ := hc.floor
  simp [EntryOk, recordedEntry, blankEntry, isAdmitted, countsLease, hlow, hle, hhigh, hc.lease]

theorem claimOffered_keeps {s : State} {n : Slot} {f : ClaimFields} {i : Idx} (hc : ClaimTaken s n f i)
    (hadmissible : admissible s f.cls f.floor = true) : Keeps s (claimOffered i n f s) := by
  obtain ⟨hop, -, hroom⟩ := (admissible_iff s f.cls f.floor).mp hadmissible
  have hentry (j : Idx) : (claimOffered i n f s).entry j
      = if j = i then { recordedEntry (s.entry i) n f with
                          state := .offered, held := min f.requested (headroom s)
                          deadline := some (expiryAfter s (duration s .offerw)) } else s.entry j := by
    rw [claimOffered, offerEntry_entry, entry_setEntry_same]
    split
    · rfl
    · next hj => exact entry_setEntry_ne _ _ hj
  have hfloor := hc.floor
  have hlists : ListsOk s → ListsOk (claimOffered i n f s) := .of_admitted hentry rfl rfl rfl
  have honly := claimOffered_only i n f s
  refine ⟨.of_only honly, hlists, fun _ => .of_only honly, hc.sound hentry honly rfl rfl rfl rfl rfl rfl rfl (by simp)
    ((recordedEntry_ok hc).offered rfl (by show f.floor ≤ _; omega) (Nat.min_le_left ..))
    ⟨ahead_expiryAfter s _, fun p hp => by cases hp⟩ hlists (fun _ => hop) fun _ _ => ?_⟩
  refine covered_of_le (heldTotal_raised (s := s) honly.capacity hentry ?_ (covered_of_headroom (by omega)))
  exact (Nat.min_le_right ..).trans (Nat.le_add_left ..)

theorem claimWaiting_keeps {s : State} {n : Slot} {f : ClaimFields} {i : Idx} (hc : ClaimTaken s n f i) :
    Keeps s (claimWaiting i n f s) := by
  have hentry (j : Idx) : (claimWaiting i n f s).entry j
      = if j = i then { recordedEntry (s.entry i) n f with state := .waiting } else s.entry j := entry_setEntry ..
  have hlists (hl : ListsOk s) : ListsOk (claimWaiting i n f s) := by
    have hwait := hl.not_mem_waitQueue (i := i) (by simp [hc.free])
    have hadmission := hl.not_mem_admission (i := i) (by simp [hc.free, isAdmitted])
    refine hl.of_joined hentry (filter_ne_of_not_mem hwait).symm rfl (filter_ne_of_not_mem hadmission).symm rfl
      (fun j hj => ?_) fun j hj => (joinBehind_behind f.cls hl.2.2.2.2 j hj).le
    exact of_decide_eq_true (List.mem_takeWhile_imp (p := fun j => decide (f.cls ≤ (s.entry j).cls)) hj)
  have honly := claimWaiting_only i n f s
  refine ⟨.of_only honly, hlists, fun _ => .of_only honly, hc.sound hentry honly rfl rfl rfl rfl rfl rfl rfl (by simp)
    (recordedEntry_ok hc) ⟨ahead_none s, fun p hp => by cases hp⟩ hlists (fun h => by cases h)
    fun _ => .of_update rfl hentry ?_⟩
  rw [pendingOf_zero (e := s.entry i) (by simp [hc.free]) (by simp [hc.free])]
  exact Nat.zero_le _

theorem handleClaim_settles (n : Slot) (msg : List Byte) (s : State) : Settles s (handleClaim n msg s) := by
  unfold handleClaim
  split
  · exact refuse_settles ..
  next hnone =>
    unfold takeClaim
    dsimp only
    split
    · exact refuse_settles ..
    next i hi =>
      have hc := claimTaken_of_checks hnone hi
      have hkeeps : Keeps s (if admissible s (claimFields msg).cls (claimFields msg).floor
          then claimOffered i n (claimFields msg) s else claimWaiting i n (claimFields msg) s) :=
        .ite (fun hadm => claimOffered_keeps hc hadm) fun _ => claimWaiting_keeps hc
      exact (hkeeps.trans (replyEntry_settles ..).toKeeps).judged

/-! ## CONFIRM (R41 to R44) -/

theorem confirmed_entry (n : Slot) (i j : Idx) (st : EntryState) (s : State) :
    (confirmed n i st s).entry j = if j = i then confirmedEntry s (s.entry i) st else s.entry j := entry_setEntry ..

/-- The entry has taken its offer, powered or waiting for power. -/
def TakesPower (e : Entry) (st : EntryState) : Prop := st = .enabling ∨ st = poweredState e

theorem EntryOk.confirmed {e : Entry} (h : EntryOk e) (hs : e.state = .offered) {st : EntryState} (hst : TakesPower e st)
    (s : State) : EntryOk (confirmedEntry s e st) := by
  obtain ⟨-, hlevels, hadm, -, -, -, -, htarget, hcause, -, -, hlease⟩ := h
  have hle := (hadm (by rw [hs]; rfl)).2
  have hperiod : (newPeriod s e.lease).isSome = true ↔ e.lease ≠ 0 := by
    unfold newPeriod
    split <;> simp [*]
  rcases hst with rfl | rfl
  · simp_all [EntryOk, confirmedEntry, isAdmitted, countsLease]
  · by_cases hfull : e.held = e.requested
    · simp_all [EntryOk, confirmedEntry, poweredState, isAdmitted, countsLease]
    · simp_all [EntryOk, confirmedEntry, poweredState, isAdmitted, countsLease]
      omega

theorem TakesPower.admitted {e : Entry} {st : EntryState} (h : TakesPower e st) :
    isAdmitted st = true ∧ st ≠ .waiting ∧ st ≠ .retired ∧ needsPower st = true ∧ st ≠ .reducing ∧ st ≠ .revoking
      ∧ isStanding st = true := by
  rcases h with rfl | rfl
  · decide
  · rcases poweredState_live e with h | h <;> rw [h] <;> decide

section
variable {s : State} {n : Slot} {i : Idx} {st : EntryState} (hoffered : (s.entry i).state = .offered)
  (hn : (s.entry i).slot = n) (hst : TakesPower (s.entry i) st)
include hoffered hst

theorem confirmed_lists (h : ListsOk s) : ListsOk (confirmed n i st s) := by
  refine ListsOk.of_kinds (s := s) rfl rfl (fun j => ?_) h
  rw [confirmed_entry]
  split
  · next hj =>
    rw [hj, hoffered]
    obtain ⟨hadm, hwait, -⟩ := hst.admitted
    exact ⟨iff_of_false hwait (by decide), hadm, rfl⟩
  · exact ⟨Iff.rfl, rfl, rfl⟩

include hn

/-- Of the groups of the invariant only the slots have to be settled after the hand-off. -/
theorem confirmed_sound {t : State} (only : ContractsOnly s t) (htable : t.table = (confirmed n i st s).table)
    (hw : t.waitQueue = s.waitQueue) (ha : t.admission = s.admission) (hbox : t.outboxes = (removeNotice n i .offer s).outboxes)
    (hnext : t.nextItem = s.nextItem) (hslots : SlotsCore t) (hahead : SlotsAhead t) (hsupplied : ∀ m, SlotSupplied t m)
    (hs : Sound s) : Sound t := by
  have hentry (j : Idx) : t.entry j = if j = i then confirmedEntry s (s.entry i) st else s.entry j := by
    rw [entry_of_table htable, confirmed_entry]
  have hcs := hs.contracts
  obtain ⟨hadm, hwait, hopen, -, hred, hrev, -⟩ := hst.admitted
  have hlists : ListsOk t := by
    refine ListsOk.of_kinds (s := confirmed n i st s) hw ha (fun j => ?_) (confirmed_lists (n := n) hoffered hst hcs.lists)
    rw [entry_of_table htable]
    exact ⟨Iff.rfl, rfl, rfl⟩
  refine hs.of_only only ⟨.of_update hentry (fun he => he.confirmed hoffered hst s) hcs.entries,
    .of_update only.now hentry (fun _ => newPeriod_ahead s (ahead_none s) rfl) hcs.ahead, hlists,
    .of_entries (fun j hj => ?_) hcs.limits,
    hcs.notices.of_removed (k := .offer) hentry ⟨rfl, rfl, rfl⟩ hn (fun m => outbox_of_outboxes hbox m) hnext
      (fun x hk hx => absurd (noticeFits_offered hoffered hx) hk) hopen,
    hslots, hahead⟩ (fun j hj => ?_) (hs.covered.of_update only.capacity hentry ?_) hsupplied
  · rw [hentry j] at hj ⊢
    split at hj
    · next hji => rw [if_pos hji, hji]; exact ⟨by simp [hoffered], rfl, rfl⟩
    · next hji => rw [if_neg hji]; exact ⟨hj, rfl, rfl⟩
  · rw [hentry j] at hj
    split at hj
    · next hji => rw [hji, hoffered]; exact .inl rfl
    · exact .inl hj
  · rw [pendingOf_zero (e := s.entry i) (by simp [hoffered]) (by simp [hoffered]),
      pendingOf_zero (e := confirmedEntry s (s.entry i) st) hred hrev]
    exact le_rfl

omit hoffered hst in
/-- The slots of the other numbers see nothing of the hand-off. -/
theorem confirmed_otherSlot {t : State} (htable : t.table = (confirmed n i st s).table) {m : Slot} (hm : m ≠ n)
    (hrec : t.slotRec m = s.slotRec m) (hinrush : m ∈ t.inrush ↔ m ∈ s.inrush) (hs : SlotCore s m) : SlotCore t m := by
  have hentry (j : Idx) : t.entry j = if j = i then confirmedEntry s (s.entry i) st else s.entry j := by
    rw [entry_of_table htable, confirmed_entry]
  have hslot (j : Idx) : (t.entry j).slot = (s.entry j).slot := by
    rw [hentry j]
    split
    · next hj => rw [hj]; rfl
    · rfl
  have hsame (j : Idx) (hj : (t.entry j).slot = m) : t.entry j = s.entry j := by
    rw [hentry j, if_neg fun hji => hm (by rw [← hj, hslot, hji, hn])]
  refine hs.of_entries hrec hinrush ?_ fun j hj => ?_
  · rw [Bool.eq_iff_iff, hasNeed_iff, hasNeed_iff]
    refine exists_congr fun j => ?_
    constructor
    · rintro ⟨hj, hp⟩
      have hequal := hsame j hj
      rw [hequal] at hj hp
      exact ⟨hj, hp⟩
    · rintro ⟨hj, hp⟩
      rw [← hslot j] at hj
      exact ⟨hj, by rw [hsame j hj]; exact hp⟩
  · have hequal := hsame j (ofSlot_slot hj)
    rw [hequal] at hj ⊢
    exact ⟨hj, fun _ => id, id⟩

omit hoffered in
theorem confirmed_hasNeed {t : State} (htable : t.table = (confirmed n i st s).table) : hasNeed t n = true := by
  obtain ⟨-, -, -, hneed, -⟩ := hst.admitted
  refine (hasNeed_iff t n).mpr ⟨i, ?_⟩
  rw [entry_of_table htable, confirmed_entry, if_pos rfl]
  exact ⟨hn, hneed⟩

/-- The slot of the entry when it is powered already, or waits for power already. -/
theorem confirmed_ownSlot (hpowered : (s.slotRec n).state = .on ∧ st ≠ .enabling
      ∨ (s.slotRec n).state = .queued ∨ (s.slotRec n).state = .suspended) (hs : SlotsCore s) :
    SlotsCore (confirmed n i st s) := by
  refine ⟨fun m => ?_, hs.nodup, hs.ordered⟩
  by_cases hm : m = n
  case neg => exact confirmed_otherSlot (t := confirmed n i st s) (st := st) hn rfl hm rfl Iff.rfl (hs.slot m)
  subst hm
  have hold : hasNeed s m = true := by
    refine (hs.slot m).need.mpr ?_
    rcases hpowered with ⟨h, -⟩ | h | h
    · exact .inr (.inl h)
    · exact .inl h
    · exact .inr (.inr h)
  refine SlotCore.of_entries (s := s) rfl Iff.rfl ((confirmed_hasNeed hn hst rfl).trans hold.symm) (fun j hj => ?_) (hs.slot m)
  rw [confirmed_entry] at hj ⊢
  split at hj
  · next hji =>
    rw [if_pos hji, hji]
    refine ⟨(ofSlot_iff ..).mpr ⟨by simp [hoffered], hn⟩, fun hon hen => ?_, fun _ => by rw [hoffered]; rfl⟩
    rcases hpowered with ⟨-, hne⟩ | h | h
    · exact absurd hen hne
    · rw [hon] at h
      cases h
    · rw [hon] at h
      cases h
  · next hji => rw [if_neg hji]; exact ⟨hj, fun _ => id, id⟩

omit hoffered in
/-- The slot of the entry when it was IDLE and has gained its need (R149). -/
theorem confirmed_gained {t : State} {r : SlotRec} (htable : t.table = (confirmed n i st s).table)
    (hidle : (s.slotRec n).state = .idle) (hrec : t.slotRec n = r) (hswitch : r.switch = false)
    (hpowered : r.state = .queued ∧ r.key.isSome = true ∧ n ∈ t.inrush
      ∨ r.state = .suspended ∧ r.key = none ∧ n ∉ t.inrush)
    (hr : r = { s.slotRec n with state := r.state, key := r.key }) (hs : SlotCore s n) : SlotCore t n := by
  have hseated : (s.slotRec n).seated = true := by
    cases hseat : (s.slotRec n).seated with
    | true => rfl
    | false => rcases hs.unseated hseat with h | h <;> rw [hidle] at h <;> cases h
  have htimed : ¬ (r.blanking.isSome = true ∨ r.fault.isSome = true ∨ r.stable.isSome = true) := fun h => by
    rw [hr] at h
    have hon := hs.timed h
    rw [hidle] at hon
    cases hon
  have hcool : ¬ r.cooldown.isSome = true := fun h => by
    rw [hr] at h
    have htripped := hs.cooling.mp h
    rw [hidle] at htripped
    cases htripped
  have hseat : r.seated = true := by rw [hr]; exact hseated
  have htrips : r.trips ≤ 14 := by rw [hr]; exact hs.tripLimit (by simp [hidle])
  have hneed := confirmed_hasNeed hn hst htable
  rcases hpowered with ⟨hst', hkey, hq⟩ | ⟨hst', hkey, hq⟩ <;> constructor <;> rw [hrec] <;>
    simp [hst', hkey, hq, hswitch, hneed, hseat, hcool, htimed, htrips, htrips.trans (by decide : 14 ≤ 15)]

end

theorem insertInrush_perm (l : List Slot) (p : Slot → Bool) (n : Slot) :
    (l.takeWhile p ++ n :: l.dropWhile p).Perm (n :: l) :=
  List.perm_middle.trans (by rw [List.takeWhile_append_dropWhile])

/-- The slot joins the Inrush Queue behind the keys of at least its own (R151). -/
theorem confirmed_queued {s : State} {n : Slot} {i : Idx} (hn : (s.entry i).slot = n)
    (c : Sys2Proof.Class) (hidle : (s.slotRec n).state = .idle) (hs : SlotsCore s) :
    SlotsCore (joinInrush n c (confirmed n i .enabling s)) := by
  have hpower : TakesPower (s.entry i) .enabling := .inl rfl
  have hcore := hs.slot n
  have hout : n ∉ s.inrush := fun h => by
    rw [hcore.inrush.mp h] at hidle
    cases hidle
  have hnone : (s.slotRec n).switch = false := Bool.eq_false_iff.mpr fun h => by
    rw [hcore.switch.mp h] at hidle
    cases hidle
  have hperm := insertInrush_perm s.inrush (fun m => decide (c ≤ (s.slotRec m).key.getD 0)) n
  have hrec (m : Slot) : (joinInrush n c (confirmed n i .enabling s)).slotRec m
      = if m = n then { s.slotRec n with state := .queued, key := some c } else s.slotRec m := slotRec_setSlot ..
  have hmem (m : Slot) : m ∈ (joinInrush n c (confirmed n i .enabling s)).inrush ↔ m = n ∨ m ∈ s.inrush :=
    hperm.mem_iff.trans List.mem_cons
  refine ⟨fun m => ?_, hperm.nodup_iff.mpr (List.nodup_cons.mpr ⟨hout, hs.nodup⟩), ?_⟩
  · by_cases hm : m = n
    · subst hm
      exact confirmed_gained hn hpower rfl hidle ((hrec m).trans (if_pos rfl)) hnone
        (.inl ⟨rfl, rfl, (hmem m).mpr (.inl rfl)⟩) rfl hcore
    · exact confirmed_otherSlot (t := joinInrush n c (confirmed n i .enabling s)) (st := .enabling) hn rfl hm
        ((hrec m).trans (if_neg hm)) ((hmem m).trans (or_iff_right hm)) (hs.slot m)
  · have hkey (m : Slot) (hm : m ∈ s.inrush) : (joinInrush n c (confirmed n i .enabling s)).slotRec m = s.slotRec m := by
      rw [hrec, if_neg (ne_of_mem_of_not_mem hm hout)]
    have hself : ((joinInrush n c (confirmed n i .enabling s)).slotRec n).key.getD 0 = c := by rw [hrec, if_pos rfl]; rfl
    have hordered := hs.ordered
    rw [← List.takeWhile_append_dropWhile (p := fun m => decide (c ≤ (s.slotRec m).key.getD 0)) (l := s.inrush)] at hordered
    have hbehind := joinInrush_behind c hs.ordered
    have hahead (m : Slot) (hm : m ∈ s.inrush.takeWhile fun m => decide (c ≤ (s.slotRec m).key.getD 0)) :
        c ≤ (s.slotRec m).key.getD 0 :=
      of_decide_eq_true (List.mem_takeWhile_imp (p := fun m => decide (c ≤ (s.slotRec m).key.getD 0)) hm)
    rw [List.pairwise_append] at hordered
    obtain ⟨hfront, hback, hacross⟩ := hordered
    have hin {m : Slot} (hm : m ∈ s.inrush.takeWhile fun m => decide (c ≤ (s.slotRec m).key.getD 0)) :=
      hkey m (List.takeWhile_subset _ hm)
    have hin' {m : Slot} (hm : m ∈ s.inrush.dropWhile fun m => decide (c ≤ (s.slotRec m).key.getD 0)) :=
      hkey m (List.dropWhile_subset _ hm)
    refine List.pairwise_append.mpr ⟨hfront.imp_of_mem fun ha hb hab => ?_,
      List.pairwise_cons.mpr ⟨fun m hm => ?_, hback.imp_of_mem fun ha hb hab => ?_⟩, fun a ha b hb => ?_⟩
    · rw [hin ha, hin hb]
      exact hab
    · rw [hin' hm, hself]
      exact (hbehind m hm).le
    · rw [hin' ha, hin' hb]
      exact hab
    · rcases List.mem_cons.mp hb with rfl | hb
      · rw [hin ha, hself]
        exact hahead a ha
      · rw [hin ha, hin' hb]
        exact hacross a ha b hb

/-- The slot waits for the supply with its first need (R149). -/
theorem confirmed_suspended {s : State} {n : Slot} {i : Idx} (hn : (s.entry i).slot = n)
    (hidle : (s.slotRec n).state = .idle) (hs : SlotsCore s) :
    SlotsCore ((confirmed n i .enabling s).setSlot n { s.slotRec n with state := .suspended }) := by
  have hpower : TakesPower (s.entry i) .enabling := .inl rfl
  have hcore := hs.slot n
  have hout : n ∉ s.inrush := fun h => by
    rw [hcore.inrush.mp h] at hidle
    cases hidle
  have hoff : (s.slotRec n).switch = false := Bool.eq_false_iff.mpr fun h => by
    rw [hcore.switch.mp h] at hidle
    cases hidle
  have hkey : (s.slotRec n).key = none := Option.not_isSome_iff_eq_none.mp fun h => by
    rw [hcore.key.mp h] at hidle
    cases hidle
  have hrec (m : Slot) : ((confirmed n i .enabling s).setSlot n { s.slotRec n with state := .suspended }).slotRec m
      = if m = n then { s.slotRec n with state := .suspended } else s.slotRec m := slotRec_setSlot ..
  refine ⟨fun m => ?_, hs.nodup, hs.ordered.imp_of_mem fun {a b} ha hb hab => ?_⟩
  · by_cases hm : m = n
    · subst hm
      exact confirmed_gained hn hpower rfl hidle ((hrec m).trans (if_pos rfl)) hoff (.inr ⟨rfl, hkey, hout⟩) rfl hcore
    · exact confirmed_otherSlot (t := (confirmed n i .enabling s).setSlot n { s.slotRec n with state := .suspended })
        (st := .enabling) hn rfl hm ((hrec m).trans (if_neg hm)) Iff.rfl (hs.slot m)
  · rw [hrec, hrec, if_neg (ne_of_mem_of_not_mem ha hout), if_neg (ne_of_mem_of_not_mem hb hout)]
    exact hab

/-- The state after the hand-off of Table 2-5. -/
def handedOff (n : Slot) (i : Idx) (s : State) : State := confirmEntry i (removeNotice n i .offer s)

theorem handedOff_only (n : Slot) (i : Idx) (s : State) : ContractsOnly s (handedOff n i s) :=
  (removeNotice_only n i .offer s).trans (confirmEntry_only i _)

/-- Whatever the slot, the entry takes its offer and the rest of the contracts is left. -/
theorem handedOff_contracts {n : Slot} {i : Idx} {s : State} (hn : (s.entry i).slot = n) :
    ∃ st, TakesPower (s.entry i) st ∧ (handedOff n i s).table = (confirmed n i st s).table
      ∧ (handedOff n i s).waitQueue = s.waitQueue ∧ (handedOff n i s).admission = s.admission
      ∧ (handedOff n i s).outboxes = (removeNotice n i .offer s).outboxes ∧ (handedOff n i s).nextItem = s.nextItem := by
  unfold handedOff
  cases hst : (s.slotRec n).state
  case on => exact ⟨_, .inr rfl, by rw [confirmEntry_on hn hst]; exact ⟨rfl, rfl, rfl, rfl, rfl⟩⟩
  case queued => exact ⟨_, .inl rfl, by rw [confirmEntry_waits hn (.inl hst)]; exact ⟨rfl, rfl, rfl, rfl, rfl⟩⟩
  case suspended => exact ⟨_, .inl rfl, by rw [confirmEntry_waits hn (.inr hst)]; exact ⟨rfl, rfl, rfl, rfl, rfl⟩⟩
  case idle =>
    refine ⟨_, .inl rfl, ?_⟩
    rw [confirmEntry_idle hn hst]
    unfold gainNeed
    split <;> exact ⟨rfl, rfl, rfl, rfl, rfl⟩
  all_goals
    refine ⟨_, .inl rfl, ?_⟩
    subst hn
    simp only [confirmEntry, removeNotice_entry, removeNotice_slotRec, hst]
    exact ⟨rfl, rfl, rfl, rfl, rfl⟩

theorem handedOff_sound {n : Slot} {i : Idx} {s : State} (hoffered : (s.entry i).state = .offered)
    (hn : (s.entry i).slot = n) (hs : Sound s) : Sound (handedOff n i s) := by
  have hcs := hs.contracts
  have hcore := hcs.slots.slot n
  have hof : ofSlot n (s.entry i) = true := (ofSlot_iff ..).mpr ⟨by simp [hoffered], hn⟩
  have hstanding : ofSlotIn n isStanding (s.entry i) = true := by rw [ofSlotIn, hof, hoffered]; rfl
  have honly := handedOff_only n i s
  unfold handedOff at honly ⊢
  cases hst : (s.slotRec n).state
  case on =>
    have hpower : TakesPower (s.entry i) (poweredState (s.entry i)) := .inr rfl
    have hne : poweredState (s.entry i) ≠ .enabling := by
      rcases poweredState_live (s.entry i) with h | h <;> rw [h] <;> decide
    rw [confirmEntry_on hn hst] at honly ⊢
    exact confirmed_sound hoffered hn hpower honly rfl rfl rfl rfl rfl
      (confirmed_ownSlot hoffered hn hpower (.inl ⟨hst, hne⟩) hcs.slots) hcs.slotsAhead
      (fun m => .of_rec (s := s) rfl (.inl rfl) (hs.supplied m)) hs
  case queued =>
    rw [confirmEntry_waits hn (.inl hst)] at honly ⊢
    exact confirmed_sound hoffered hn (.inl rfl) honly rfl rfl rfl rfl rfl
      (confirmed_ownSlot hoffered hn (.inl rfl) (.inr (.inl hst)) hcs.slots) hcs.slotsAhead
      (fun m => .of_rec (s := s) rfl (.inl rfl) (hs.supplied m)) hs
  case suspended =>
    rw [confirmEntry_waits hn (.inr hst)] at honly ⊢
    exact confirmed_sound hoffered hn (.inl rfl) honly rfl rfl rfl rfl rfl
      (confirmed_ownSlot hoffered hn (.inl rfl) (.inr (.inr hst)) hcs.slots) hcs.slotsAhead
      (fun m => .of_rec (s := s) rfl (.inl rfl) (hs.supplied m)) hs
  case idle =>
    rw [confirmEntry_idle hn hst] at honly ⊢
    have hrec (r : SlotRec) (m : Slot) : ((confirmed n i .enabling s).setSlot n r).slotRec m
        = if m = n then r else s.slotRec m := slotRec_setSlot ..
    have hahead {t : State} {st : SlotState} {key : Option Sys2Proof.Class} (hnow : t.now = s.now)
        (hslot : ∀ m, t.slotRec m = if m = n then { s.slotRec n with state := st, key := key } else s.slotRec m) :
        SlotsAhead t := fun m => by
      rw [hslot m]
      refine .of_now hnow ?_
      split
      · exact hcs.slotsAhead n
      · exact hcs.slotsAhead m
    cases hsupply : s.supply
    case operating =>
      have hgain : gainNeed n (s.entry i).cls (confirmed n i .enabling s) = joinInrush n (s.entry i).cls (confirmed n i .enabling s) := by
        have hsame : (confirmed n i .enabling s).supply = .operating := hsupply
        simp only [gainNeed, hsame]
      rw [hgain] at honly ⊢
      refine confirmed_sound hoffered hn (.inl rfl) honly rfl rfl rfl rfl rfl (confirmed_queued hn _ hst hcs.slots)
        (hahead rfl (hrec _)) (fun m => ?_) hs
      by_cases hm : m = n
      · have hqueued : (joinInrush n (s.entry i).cls (confirmed n i .enabling s)).slotRec m
            = { s.slotRec n with state := .queued, key := some (s.entry i).cls } := (hrec _ m).trans (if_pos hm)
        exact ⟨fun _ => hsupply, fun h => by rw [hqueued] at h; cases h⟩
      · exact .of_rec (s := s) rfl (.inl ((hrec _ m).trans (if_neg hm))) (hs.supplied m)
    case hold =>
      have hgain : gainNeed n (s.entry i).cls (confirmed n i .enabling s)
          = (confirmed n i .enabling s).setSlot n { s.slotRec n with state := .suspended } := by
        have hsame : (confirmed n i .enabling s).supply = .hold := hsupply
        simp only [gainNeed, hsame]
        rfl
      rw [hgain] at honly ⊢
      refine confirmed_sound hoffered hn (.inl rfl) honly rfl rfl rfl rfl rfl (confirmed_suspended hn hst hcs.slots)
        (hahead rfl (hrec _)) (fun m => ?_) hs
      by_cases hm : m = n
      · have hsuspended := (hrec { s.slotRec n with state := .suspended } m).trans (if_pos hm)
        refine ⟨fun h => ?_, fun _ => hsupply⟩
        rw [hsuspended] at h
        rcases h with h | h <;> cases h
      · exact .of_rec (s := s) rfl (.inl ((hrec _ m).trans (if_neg hm))) (hs.supplied m)
    all_goals
      have hnone := (hs.capacity.2.1 (by simp [hsupply])).2 i
      rw [hoffered] at hnone
      cases hnone
  case empty =>
    rw [hcore.vacant (hcore.empty hst) i] at hof
    cases hof
  case tripped =>
    rw [hcore.cleared (.inl hst) i] at hstanding
    cases hstanding
  case blocked =>
    rw [hcore.cleared (.inr hst) i] at hstanding
    cases hstanding

theorem handedOff_settles {n : Slot} {i : Idx} {s : State} (hoffered : (s.entry i).state = .offered)
    (hn : (s.entry i).slot = n) : Settles s (handedOff n i s) := by
  obtain ⟨st, hst, htable, hw, ha, -⟩ := handedOff_contracts hn
  have honly := handedOff_only n i s
  have hkeeps : Keeps s (handedOff n i s) := by
    refine ⟨.of_only honly, fun hl => ?_, fun _ => .of_only honly, handedOff_sound hoffered hn⟩
    refine ListsOk.of_kinds (s := confirmed n i st s) hw ha (fun j => ?_) (confirmed_lists hoffered hst hl)
    rw [entry_of_table htable]
    exact ⟨Iff.rfl, rfl, rfl⟩
  refine hkeeps.quiet honly.deficit honly.capacity fun _ => ?_
  have hheld := heldTotal_change (s := s) (t := confirmed n i st s) i fun j hj => by rw [confirmed_entry, if_neg hj]
  rw [confirmed_entry, if_pos rfl] at hheld
  rw [heldTotal_of_table htable]
  exact Nat.add_right_cancel hheld

theorem takeConfirm_settles {n : Slot} {msg : List Byte} {i : Idx} {s : State} (hn : (s.entry i).slot = n) :
    Settles s (takeConfirm n msg i s) := by
  by_cases hoffered : (s.entry i).state = .offered
  · rw [takeConfirm_offered hoffered]
    exact (handedOff_settles hoffered hn).trans (replyEntry_settles ..)
  · rw [takeConfirm_wrongState hoffered]
    exact wrongState_settles ..

/-! ## Every message (R120, R121) -/

theorem handleKind_settles (k : Kind) (n : Slot) (msg : List Byte) (s : State) : Settles s (handleKind k n msg s) := by
  cases k with
  | claim => exact handleClaim_settles n msg s
  | confirm => exact onHandle_settles .confirm n msg fun _ _ hn => takeConfirm_settles hn
  | adjust => exact onHandle_settles .adjust n msg fun _ hnone hn => takeAdjust_settles hn (fieldsInRange_of_refusalOf hnone)
  | comply => exact onHandle_settles .comply n msg fun _ _ hn => takeComply_settles hn
  | renew => exact onHandle_settles .renew n msg fun _ _ hn => takeRenew_settles hn
  | release => exact onHandle_settles .release n msg fun i _ _ => takeRelease_settles n msg i s
  | query => exact handleQuery_settles n msg s

theorem handleMessage_settles (n : Slot) (msg : List Byte) (s : State) : Settles s (handleMessage n msg s) := by
  unfold handleMessage
  split
  · exact refuse_settles ..
  · split
    · exact refuse_settles ..
    · exact handleKind_settles ..

end Sys2Proof.Machine
end

section
/-! PROOFS. What every step keeps, continued: the Module Bus Interface (chapter 7). -/

namespace Sys2Proof.Machine

/-! ## The interface in order (R117 to R119, R125, R126) -/

/-- What a state of the interface holds (Table 7-2). -/
def BufferOk : Bus → Prop
  | .receive _ buffer => buffer.length ≤ 16
  | .send record _ sent _ => record.length = 12 ∧ sent ≤ 12
  | .idle | .address | .overrun _ | .passive => True

theorem busHolds_iff (s : State) : BusHolds s ↔ BufferOk s.bus ∧ (s.bus = .idle ∨ s.bus = .passive → s.bits = []) := by
  unfold BusHolds
  cases s.bus <;> simp [BufferOk]

/-- The interface part of `PortsOk`. -/
structure InterfaceOk (s : State) : Prop where
  buffer : BufferOk s.bus
  quiet : s.bus = .idle ∨ s.bus = .passive → s.bits = []
  bits : s.bits.length ≤ 8
  window : takesPart s.bus = true → windowValid s = true
  clock : s.clock.isSome = true → s.pins.scl = true
  stall : s.stallTimer.isSome = true ↔ takesPart s.bus = true ∧ s.pins.scl = false

theorem portsOk_iff (s : State) : PortsOk s ↔ InterfaceOk s ∧ FrameOk s := by
  unfold PortsOk
  rw [busHolds_iff]
  exact ⟨fun ⟨⟨h1, h2⟩, h3, h4, h5, h6, h7⟩ => ⟨⟨h1, h2, h3, h4, h5, h6⟩, h7⟩,
    fun ⟨⟨h1, h2, h3, h4, h5, h6⟩, h7⟩ => ⟨⟨h1, h2⟩, h3, h4, h5, h6, h7⟩⟩

/-- The interface, the pins and the frame are a part of the state of their own. -/
theorem Sound.of_ports {s : State} (h : Sound s) {bus : Bus} {bits : List Bool} {clock : Option Bool} {stallTimer : Option Nat}
    {pins : Pins} {frame : Frame} (hports : PortsOk { s with bus, bits, clock, stallTimer, pins, frame })
    (hstall : Ahead s stallTimer) : Sound { s with bus, bits, clock, stallTimer, pins, frame } where
  contracts := h.contracts.of_same rfl rfl rfl rfl rfl rfl rfl rfl
  config := h.config
  supply := h.supply
  capacity := h.capacity
  covered := h.covered
  supplied n := ⟨(h.supplied n).powered, (h.supplied n).suspended⟩
  clocks := ⟨h.clocks.qual, h.clocks.hold, hstall, h.clocks.lastOn⟩
  ports := hports

/-- The interface enters a state it may enter: with the window valid where it takes part (R117). -/
theorem enterBus_ports {b : Bus} {s : State} (hb : BufferOk b) (hw : takesPart b = true → windowValid s = true)
    (hf : FrameOk s) : PortsOk (enterBus b s) := by
  refine (portsOk_iff _).mpr ⟨⟨hb, fun _ => rfl, Nat.zero_le _, hw, (fun h => by cases h), ?_⟩, hf⟩
  rw [enterBus_eq]
  cases takesPart b <;> cases s.pins.scl <;> simp

theorem enterBus_sound {b : Bus} {s : State} (hb : BufferOk b) (hw : takesPart b = true → windowValid s = true)
    (hs : Sound s) : Sound (enterBus b s) := by
  refine hs.of_ports (enterBus_ports hb hw ((portsOk_iff s).mp hs.ports).2) ?_
  split
  · exact ahead_expiryAfter s _
  · exact ahead_none s

theorem enterBus_settles {b : Bus} {s : State} (hb : BufferOk b) (hw : takesPart b = true → windowValid s = true) :
    Settles s (enterBus b s) :=
  ⟨⟨⟨rfl, rfl, rfl, rfl, rfl, rfl, rfl, rfl, rfl, rfl, rfl, rfl, rfl, rfl, rfl, rfl, fun _ => id⟩, id, fun _ => id,
    enterBus_sound hb hw⟩, fun _ => id⟩

theorem enterBus_afterEnd_settles (e : BusEnd) (s : State) : Settles s (enterBus (afterEnd e) s) := by
  have hstopped : BufferOk (afterEnd e) := by cases e <;> trivial
  refine enterBus_settles hstopped fun h => ?_
  rw [takesPart_afterEnd] at h
  cases h

/-! ## What ends in flight (R119, R120, R127) -/

theorem endInFlight_settles (s : State) : Settles s (endInFlight s) := by
  unfold endInFlight
  split
  · unfold takeWrite
    split
    · exact handleMessage_settles ..
    · exact .refl s
    · exact .refl s
  · exact .ite (fun _ => deliver_settles _ s) fun _ => .refl s
  all_goals exact .refl s

theorem endTransaction_settles (e : BusEnd) (s : State) : Settles s (endTransaction e s) :=
  (endInFlight_settles s).trans (enterBus_afterEnd_settles e _)

/-! ## The commands (R119, R124 to R127) -/

theorem writeMessage_settles (n : Slot) (bytes : List Byte) {handler : State → State} (hh : ∀ t, Settles t (handler t))
    (e : BusEnd) (s : State) : Settles s (writeMessage n bytes handler e s) := by
  refine .unlessReset fun _ => (endTransaction_settles .restart s).trans (.trans ?_ (enterBus_afterEnd_settles e _))
  split
  · split
    · exact hh _
    all_goals exact .refl _
  · exact .refl _

theorem length_withCheck {s : State} {a : ReadAddr} {body : List Byte} (h : body.length = 11) :
    (withCheck s a body).length = 12 := by
  simp [withCheck, h]

theorem stageRecord_buffer (a : ReadAddr) (s : State) : BufferOk (stageRecord a s) := by
  cases a with
  | slot n =>
    refine ⟨length_withCheck ?_, Nat.zero_le _⟩
    unfold slotBody
    split <;> rfl
  | summary => exact ⟨length_withCheck rfl, Nat.zero_le _⟩

theorem readStaging_settles (a : ReadAddr) (s : State) :
    Settles s (unlessReset (fun u => enterBus (if windowValid (startSeen u) then stageRecord a (startSeen u) else .passive)
      (startSeen u)) s) := by
  refine .unlessReset fun _ => (endTransaction_settles .restart s).trans (enterBus_settles ?_ fun h => ?_)
  · split
    · exact stageRecord_buffer ..
    · trivial
  · split at h
    · next hw => exact hw
    · cases h

theorem transferByte_buffer {b : Bus} (h : BufferOk b) (ack : Bool) :
    BufferOk (transferByte b ack) ∧ takesPart (transferByte b ack) = takesPart b
      ∧ (transferByte b ack = .idle ∨ transferByte b ack = .passive ↔ b = .idle ∨ b = .passive) := by
  cases b with
  | send record item sent answered =>
    cases answered with
    | true => exact ⟨⟨h.1, Nat.min_le_left ..⟩, rfl, by simp [transferByte]⟩
    | false => exact ⟨h, rfl, by simp [transferByte]⟩
  | _ => exact ⟨h, rfl, Iff.rfl⟩

theorem transferred_buffer {b : Bus} (h : BufferOk b) (acks : List Bool) :
    BufferOk (transferred acks b) ∧ takesPart (transferred acks b) = takesPart b
      ∧ (transferred acks b = .idle ∨ transferred acks b = .passive ↔ b = .idle ∨ b = .passive) := by
  induction acks generalizing b with
  | nil => exact ⟨h, rfl, Iff.rfl⟩
  | cons ack acks ih =>
    obtain ⟨hb, ht, hq⟩ := transferByte_buffer h ack
    obtain ⟨hb', ht', hq'⟩ := ih hb
    exact ⟨hb', ht'.trans ht, hq'.trans hq⟩

/-- Bytes of a read have been clocked (R126). -/
theorem transferred_settles (acks : List Bool) (s : State) : Settles s { s with bus := transferred acks s.bus } := by
  refine ⟨⟨⟨rfl, rfl, rfl, rfl, rfl, rfl, rfl, rfl, rfl, rfl, rfl, rfl, rfl, rfl, rfl, rfl, fun _ => id⟩, id, fun _ => id,
    fun hs => ?_⟩, fun _ => id⟩
  obtain ⟨⟨hbuffer, hquiet, hbits, hwindow, hclock, hstall⟩, hframe⟩ := (portsOk_iff s).mp hs.ports
  obtain ⟨hb, ht, hq⟩ := transferred_buffer hbuffer acks
  refine hs.of_ports ((portsOk_iff _).mpr ⟨⟨hb, fun h => hquiet (hq.mp h), hbits, fun h => hwindow (ht ▸ h), hclock, ?_⟩, hframe⟩)
    hs.clocks.stall
  rw [ht]
  exact hstall

theorem readEnd_settles (acks : List Bool) (e : BusEnd) (s : State) :
    Settles s (unlessReset (fun u => endTransaction e { u with bus := transferred acks u.bus }) s) :=
  .unlessReset fun _ => (transferred_settles acks s).trans (endTransaction_settles e _)

theorem stall_settles (tick : Nat) (s : State) :
    Settles s (if stallDue s tick then raise .busStall (enterBus .passive s) else s) :=
  .ite (fun _ => (enterBus_settles (b := .passive) trivial fun h => by cases h).trans (.raise ..)) fun _ => .refl s

/-! ## SCL and SDA (R118) -/

/-- The changes of the pins and of the interface that a change of SCL makes. -/
theorem moveScl_state (high : Bool) (s : State) : ∃ pins bus bits clock stallTimer,
    moveScl high s = { s with pins, bus, bits, clock, stallTimer } := ⟨_, _, _, _, _, moveScl_eq high s⟩

theorem addressed_window {k : BitVec 3} {b : Byte} {x : Access} (h : addressed k b = some x) : validStraps k = true := by
  unfold addressed at h
  split at h
  · cases h
  · next hk =>
    rw [Bool.or_eq_true, not_or] at hk
    simpa using hk.1

theorem storeByte_buffer {b : Bus} (h : BufferOk b) (x : Byte) :
    BufferOk (storeByte b x) ∧ takesPart (storeByte b x) = takesPart b := by
  cases b with
  | receive n buffer =>
    by_cases hl : buffer.length < 16
    · have hstored : storeByte (.receive n buffer) x = .receive n (buffer ++ [x]) := if_pos hl
      rw [hstored]
      exact ⟨by simpa [BufferOk] using hl, rfl⟩
    · have hover : storeByte (.receive n buffer) x = .overrun n := if_neg hl
      rw [hover]
      exact ⟨trivial, rfl⟩
  | _ => exact ⟨h, rfl⟩

/-- The state after a complete byte is one the interface may enter (Table 7-2). -/
theorem afterByte_enters {s : State} (hb : BufferOk s.bus) (hw : takesPart s.bus = true → windowValid s = true) (ack : Bool) :
    BufferOk (afterByte ack s) ∧ (takesPart (afterByte ack s) = true → windowValid s = true) := by
  unfold afterByte
  split
  · unfold afterAddress
    split
    · exact ⟨trivial, fun h => by cases h⟩
    · next haddr => exact ⟨Nat.zero_le _, fun _ => addressed_window haddr⟩
    · next haddr => exact ⟨stageRecord_buffer .., fun _ => addressed_window haddr⟩
  · next hbus =>
    obtain ⟨hbuffer, htakes⟩ := storeByte_buffer hb (byteOf s.bits)
    exact ⟨hbuffer, fun h => hw (htakes ▸ h)⟩
  · next hbus =>
    obtain ⟨hbuffer, htakes⟩ := storeByte_buffer hb (byteOf s.bits)
    exact ⟨hbuffer, fun h => hw (htakes ▸ h)⟩
  · next hbus =>
    obtain ⟨hbuffer, htakes, -⟩ := transferByte_buffer hb ack
    exact ⟨hbuffer, fun h => hw (htakes ▸ h)⟩
  · exact ⟨trivial, fun h => by cases h⟩
  · exact ⟨trivial, fun h => by cases h⟩

/-- The stall timer set after a change of the pins leaves the interface in order where its other fields are (R128). -/
theorem timeStall_sound {s : State} (hs : Sound s) {bus : Bus} {bits : List Bool} {pins : Pins} (hbuffer : BufferOk bus)
    (hquiet : bus = .idle ∨ bus = .passive → bits = []) (hbits : bits.length ≤ 8)
    (hwindow : takesPart bus = true → windowValid s = true) (hcsn : pins.csn = s.pins.csn) :
    Sound (timeStall { s with bus := bus, bits := bits, pins := pins, clock := none }) := by
  have hframe : FrameOk { s with bus := bus, bits := bits, pins := pins, clock := none } := by
    have hold := ((portsOk_iff s).mp hs.ports).2
    unfold FrameOk at hold ⊢
    rw [hcsn]
    exact hold
  refine hs.of_ports ((portsOk_iff _).mpr ⟨⟨hbuffer, hquiet, hbits, hwindow, fun h => (by cases h), ?_⟩, hframe⟩) ?_
  · dsimp only
    cases takesPart bus <;> cases pins.scl <;> simp
  · split
    · exact ahead_expiryAfter s _
    · exact ahead_none s

theorem sclFall_sound {s : State} (hs : Sound s) : Sound (sclFall s) := by
  obtain ⟨⟨hbuffer, hquiet, hbits, hwindow, -, -⟩, -⟩ := (portsOk_iff s).mp hs.ports
  have hlow : Sound (timeStall (sclLow s)) := timeStall_sound hs hbuffer hquiet hbits hwindow rfl
  show Sound (timeStall (match s.clock with | none => sclLow s | some level => takeBit level (sclLow s)))
  cases s.clock with
  | none => exact hlow
  | some level =>
    by_cases hstopped : s.bus = .idle ∨ s.bus = .passive
    · have hsame : takeBit level (sclLow s) = sclLow s := by
        unfold takeBit
        rcases hstopped with h | h <;> simp [sclLow, h]
      simp only [hsame]
      exact hlow
    obtain ⟨hidle, hpassive⟩ := not_or.mp hstopped
    rcases Nat.lt_or_ge s.bits.length 8 with hl | hl
    · simp only [takeBit_adds (s := sclLow s) hidle hpassive hl]
      exact timeStall_sound hs hbuffer (fun h => absurd h hstopped) (by simpa [sclLow] using hl) hwindow rfl
    · simp only [takeBit_completes (level := level) (s := sclLow s) hidle hpassive hl]
      obtain ⟨hb, hw⟩ := afterByte_enters (s := sclLow s) hbuffer hwindow (!level)
      exact timeStall_sound hs hb (fun _ => rfl) (Nat.zero_le _) hw rfl

theorem sclRise_sound {s : State} (hs : Sound s) : Sound (sclRise s) := by
  obtain ⟨⟨hbuffer, hquiet, hbits, hwindow, -, -⟩, hframe⟩ := (portsOk_iff s).mp hs.ports
  exact hs.of_ports ((portsOk_iff _).mpr ⟨⟨hbuffer, hquiet, hbits, hwindow, fun _ => rfl, by simp⟩, hframe⟩) (ahead_none s)

theorem moveScl_sound {s : State} (hs : Sound s) (high : Bool) : Sound (moveScl high s) := by
  unfold moveScl
  split
  · exact hs
  · split
    · exact sclRise_sound hs
    · exact sclFall_sound hs

/-- The levels of SDA, SCK and SDI are no part of what must be sound. -/
theorem Sound.of_pins {s : State} (h : Sound s) {pins : Pins} (hscl : pins.scl = s.pins.scl) (hcsn : pins.csn = s.pins.csn) :
    Sound { s with pins := pins } := by
  obtain ⟨⟨hbuffer, hquiet, hbits, hwindow, hclock, hstall⟩, hframe⟩ := (portsOk_iff s).mp h.ports
  refine h.of_ports ((portsOk_iff _).mpr ⟨⟨hbuffer, hquiet, hbits, hwindow, ?_, ?_⟩, ?_⟩) h.clocks.stall
  · dsimp only
    rw [hscl]
    exact hclock
  · dsimp only
    rw [hscl]
    exact hstall
  · unfold FrameOk at hframe ⊢
    rw [hcsn]
    exact hframe

/-- A change of SDA is the change of the pin and then at most a START or a STOP. -/
theorem moveSda_settles (high : Bool) (s : State) : Settles { s with pins := { s.pins with sda := high } } (moveSda high s) := by
  rcases moveSda_cases high s with h | h | h <;> rw [h]
  · exact endTransaction_settles .restart _
  · exact endTransaction_settles .stop _
  · exact .refl _

end Sys2Proof.Machine
end

section
/-! PROOFS. What every step keeps, continued: Slot Power Control and the host's commands on slots (chapter 9). -/

namespace Sys2Proof.Machine

/-! ## One slot's record -/

theorem setSlot_otherSlot {s : State} {n m : Slot} (hm : m ≠ n) (r : SlotRec) (h : SlotCore s m) : SlotCore (s.setSlot n r) m :=
  SlotCore.of_entries (s := s) (slotRec_setSlot_ne s r hm) Iff.rfl rfl (fun _ hi => ⟨hi, fun _ => id, id⟩) h

/-- One slot's record changes, and with it neither the Inrush Queue nor an entry. -/
theorem setSlot_settles {s : State} {n : Slot} {r : SlotRec} (hkey : r.key = (s.slotRec n).key)
    (hsupplied : SlotCore s n → SlotSupplied s n → SlotSupplied (s.setSlot n r) n) (hcore : SlotCore s n → SlotCore (s.setSlot n r) n)
    (hahead : RecAhead s (s.slotRec n) → RecAhead s r) : Settles s (s.setSlot n r) := by
  have honly := setSlot_only n r s
  have hslots (hs : SlotsCore s) : SlotsCore (s.setSlot n r) := by
    have hkeys (m : Slot) : ((s.setSlot n r).slotRec m).key = (s.slotRec m).key := by
      rw [slotRec_setSlot]
      split
      · next hm => rw [hm, hkey]
      · rfl
    refine ⟨fun m => ?_, hs.nodup, hs.ordered.imp fun {a b} hab => by rw [hkeys, hkeys]; exact hab⟩
    by_cases hm : m = n
    · exact hm ▸ hcore (hs.slot n)
    · exact setSlot_otherSlot hm r (hs.slot m)
  have hslotsAhead (hs : SlotsAhead s) : SlotsAhead (s.setSlot n r) := fun m => by
    rw [slotRec_setSlot]
    split
    · exact hahead (hs n)
    · exact hs m
  refine ⟨⟨.of_only honly, id, fun _ => .of_only honly, fun hs => hs.of_only honly ⟨hs.contracts.entries, hs.contracts.ahead,
    hs.contracts.lists, hs.contracts.limits, hs.contracts.notices, hslots hs.contracts.slots,
    hslotsAhead hs.contracts.slotsAhead⟩ (fun _ => .inl) hs.covered fun m => ?_⟩, fun _ => id⟩
  by_cases hm : m = n
  · exact hm ▸ hsupplied (hs.contracts.slots.slot n) (hs.supplied n)
  · exact .of_rec (s := s) rfl (.inl (slotRec_setSlot_ne s r hm)) (hs.supplied m)

/-- Timers and the trip count change, the slot's state and switch do not. -/
theorem retimed_settles {s : State} {n : Slot} {r : SlotRec} (hr : r = { s.slotRec n with
      presence := r.presence, blanking := r.blanking, fault := r.fault, stable := r.stable, trips := r.trips })
    (htimed : (s.slotRec n).state ≠ .on → r.blanking.isSome = true ∨ r.fault.isSome = true ∨ r.stable.isSome = true →
      (s.slotRec n).blanking.isSome = true ∨ (s.slotRec n).fault.isSome = true ∨ (s.slotRec n).stable.isSome = true)
    (htrips : r.trips ≤ (s.slotRec n).trips)
    (hahead : RecAhead s (s.slotRec n) → RecAhead s r) : Settles s (s.setSlot n r) := by
  have hstate : r.state = (s.slotRec n).state := by rw [hr]
  refine setSlot_settles (by rw [hr]) (fun _ h => ⟨?_, ?_⟩) (fun h => ?_) hahead
  · rw [slotRec_setSlot_same, hstate]
    exact h.powered
  · rw [slotRec_setSlot_same, hstate]
    exact h.suspended
  have hswitch : r.switch = (s.slotRec n).switch := by rw [hr]
  have hkey : r.key = (s.slotRec n).key := by rw [hr]
  have hseated : r.seated = (s.slotRec n).seated := by rw [hr]
  have hcooldown : r.cooldown = (s.slotRec n).cooldown := by rw [hr]
  exact
    { switch := by rw [slotRec_setSlot_same, hstate, hswitch]; exact h.switch
      key := by rw [slotRec_setSlot_same, hstate, hkey]; exact h.key
      inrush := by rw [slotRec_setSlot_same, hstate]; exact h.inrush
      need := by rw [slotRec_setSlot_same, hstate]; exact h.need
      energized := by rw [slotRec_setSlot_same, hstate]; exact h.energized
      unseated := by rw [slotRec_setSlot_same, hstate, hseated]; exact h.unseated
      empty := by rw [slotRec_setSlot_same, hstate, hseated]; exact h.empty
      vacant := by rw [slotRec_setSlot_same, hseated]; exact h.vacant
      cleared := by rw [slotRec_setSlot_same, hstate]; exact h.cleared
      timed := fun ht => by
        rw [slotRec_setSlot_same] at ht ⊢
        rw [hstate]
        by_contra hoff
        exact hoff (h.timed (htimed hoff ht))
      cooling := by rw [slotRec_setSlot_same, hstate, hcooldown]; exact h.cooling
      trips := by rw [slotRec_setSlot_same]; exact htrips.trans h.trips
      tripLimit := fun hne => by
        rw [slotRec_setSlot_same] at hne ⊢
        exact htrips.trans (h.tripLimit (hstate ▸ hne)) }

/-! ## Samples and timers (R146, R154, R156, R161) -/

theorem presenceSample_settles (n : Slot) (high : Bool) {s t : State} (h : exec (.presenceSample n high) s = .next t) :
    Settles s t := by
  obtain rfl := Host.Outcome.next.inj h
  refine .unlessReset fun _ => .ite (fun _ => ?_) fun _ => .ite (fun _ => .refl s) fun _ => ?_
  · exact retimed_settles rfl (fun _ h => h) le_rfl fun ha => ⟨ahead_none s, ha.2⟩
  · exact retimed_settles rfl (fun _ h => h) le_rfl fun ha => ⟨ahead_expiryAfter s _, ha.2⟩

theorem faultSample_settles (n : Slot) (high : Bool) {s t : State} (h : exec (.faultSample n high) s = .next t) :
    Settles s t := by
  obtain rfl := Host.Outcome.next.inj h
  refine .unlessReset fun _ => .ite (fun hon => ?_) fun _ => .refl s
  refine .ite (fun _ => .ite (fun _ => .refl s) fun _ => ?_) fun _ => ?_
  · refine retimed_settles rfl (fun hoff => absurd hon.1 hoff) le_rfl fun ha => ?_
    obtain ⟨hp, hb, -, hst, hc⟩ := ha
    exact ⟨hp, hb, ahead_expiryAfter s _, hst, hc⟩
  · refine retimed_settles rfl (fun hoff => absurd hon.1 hoff) le_rfl fun ha => ?_
    obtain ⟨hp, hb, -, hst, hc⟩ := ha
    exact ⟨hp, hb, ahead_none s, hst, hc⟩

theorem blankingTimerExpiry_settles (n : Slot) {s t : State} (h : exec (.blankingTimerExpiry n) s = .next t) :
    Settles s t := by
  obtain rfl := Host.Outcome.next.inj h
  refine .ite (fun _ => retimed_settles rfl (fun _ ht => .inr ?_) le_rfl fun ha => ⟨ha.1, ahead_none s, ha.2.2⟩) fun _ => .refl s
  exact ht.resolve_left (by simp)

theorem stableTimerExpiry_settles (n : Slot) {s t : State} (h : exec (.stableTimerExpiry n) s = .next t) : Settles s t := by
  obtain rfl := Host.Outcome.next.inj h
  refine .ite (fun _ => retimed_settles rfl (fun _ ht => ?_) (Nat.zero_le _) fun ha => ?_) fun _ => .refl s
  · rcases ht with ht | ht | ht
    · exact .inl ht
    · exact .inr (.inl ht)
    · cases ht
  · obtain ⟨hp, hb, hf, -, hc⟩ := ha
    exact ⟨hp, hb, hf, ahead_none s, hc⟩

theorem clearTripsOf_settles (n : Slot) (s : State) : Settles s (clearTripsOf n s) :=
  retimed_settles rfl (fun _ h => h) (Nat.zero_le _) fun ha => ha

/-! ## An unpowered slot that stays unpowered (R147, R156, R161) -/

/-- EMPTY, IDLE, TRIPPED or BLOCKED: no switch, no key, no place in the Inrush Queue. -/
def Unpowered (st : SlotState) : Prop := st ≠ .on ∧ st ≠ .queued ∧ st ≠ .suspended

theorem SlotCore.not_on {s : State} {n : Slot} (h : SlotCore s n) (hst : Unpowered (s.slotRec n).state) :
    (s.slotRec n).switch = false ∧ (s.slotRec n).key = none ∧ n ∉ s.inrush ∧ hasNeed s n = false
      ∧ (s.slotRec n).blanking = none ∧ (s.slotRec n).fault = none ∧ (s.slotRec n).stable = none := by
  obtain ⟨hon, hqueued, hsuspended⟩ := hst
  have htimed := mt h.timed hon
  simp only [not_or, Bool.not_eq_true, Option.isSome_eq_false_iff, Option.isNone_iff_eq_none] at htimed
  refine ⟨Bool.eq_false_iff.mpr (mt h.switch.mp hon), Option.not_isSome_iff_eq_none.mp (mt h.key.mp hqueued),
    mt h.inrush.mp hqueued, Bool.eq_false_iff.mpr (mt h.need.mp ?_), htimed⟩
  exact fun hneed => hneed.elim hqueued fun h => h.elim hon hsuspended

/-- A slot record that is unpowered, with nothing standing where it is cleared. -/
theorem SlotCore.of_unpowered {t : State} {n : Slot} (hst : Unpowered (t.slotRec n).state)
    (hoff : (t.slotRec n).switch = false ∧ (t.slotRec n).key = none ∧ n ∉ t.inrush ∧ hasNeed t n = false
      ∧ (t.slotRec n).blanking = none ∧ (t.slotRec n).fault = none ∧ (t.slotRec n).stable = none)
    (unseated : (t.slotRec n).seated = false → (t.slotRec n).state = .empty ∨ (t.slotRec n).state = .blocked)
    (empty : (t.slotRec n).state = .empty → (t.slotRec n).seated = false)
    (vacant : (t.slotRec n).seated = false → ∀ i : Idx, ofSlot n (t.entry i) = false)
    (cleared : (t.slotRec n).state = .tripped ∨ (t.slotRec n).state = .blocked →
      ∀ i : Idx, ofSlotIn n isStanding (t.entry i) = false)
    (cooling : (t.slotRec n).cooldown.isSome = true ↔ (t.slotRec n).state = .tripped)
    (trips : (t.slotRec n).trips ≤ 15) (tripLimit : (t.slotRec n).state ≠ .blocked → (t.slotRec n).trips ≤ 14) :
    SlotCore t n := by
  obtain ⟨hon, hqueued, hsuspended⟩ := hst
  obtain ⟨hswitch, hkey, hinrush, hneed, hblanking, hfault, hstable⟩ := hoff
  exact ⟨by simp [hswitch, hon], by simp [hkey, hqueued], by simp [hinrush, hqueued],
    by simp [hneed, hon, hqueued, hsuspended], fun h => absurd h hon, unseated, empty, vacant, cleared,
    by simp [hblanking, hfault, hstable], cooling, trips, tripLimit⟩

/-- The record of an unpowered slot changes to an unpowered one, in a slot as seated or newly seated. -/
theorem unpowered_settles {s : State} {n : Slot} {r : SlotRec} (hr : r = { s.slotRec n with
      state := r.state, seated := r.seated, presence := r.presence, cooldown := r.cooldown, trips := r.trips })
    (hold : SlotCore s n → Unpowered (s.slotRec n).state) (hnew : SlotCore s n → Unpowered r.state)
    (hseated : r.seated = false → (s.slotRec n).seated = false)
    (unseated : SlotCore s n → r.seated = false → r.state = .empty ∨ r.state = .blocked)
    (empty : SlotCore s n → r.state = .empty → r.seated = false)
    (cleared : r.state = .tripped ∨ r.state = .blocked → (s.slotRec n).state = .tripped ∨ (s.slotRec n).state = .blocked)
    (cooling : SlotCore s n → (r.cooldown.isSome = true ↔ r.state = .tripped))
    (htrips : SlotCore s n → r.trips ≤ 15 ∧ (r.state ≠ .blocked → r.trips ≤ 14))
    (hahead : RecAhead s (s.slotRec n) → RecAhead s r) : Settles s (s.setSlot n r) := by
  refine setSlot_settles (by rw [hr]) (fun hc _ => ⟨?_, ?_⟩) (fun h => ?_) hahead
  · rw [slotRec_setSlot_same]
    exact fun hon => hon.elim (fun h => absurd h (hnew hc).1) fun h => absurd h (hnew hc).2.1
  · rw [slotRec_setSlot_same]
    exact fun h => absurd h (hnew hc).2.2
  obtain ⟨hswitch, hkey, hinrush, hneed, hblanking, hfault, hstable⟩ := h.not_on (hold h)
  apply SlotCore.of_unpowered <;> rw [slotRec_setSlot_same]
  · exact hnew h
  · rw [hr]
    exact ⟨hswitch, hkey, hinrush, hneed, hblanking, hfault, hstable⟩
  · exact unseated h
  · exact empty h
  · exact fun hseat => h.vacant (hseated hseat)
  · exact fun hst => h.cleared (cleared hst)
  · exact cooling h
  · exact (htrips h).1
  · exact (htrips h).2

theorem RecAhead.of_presence {s : State} {r : SlotRec} (h : RecAhead s r) : RecAhead s { r with presence := none } :=
  ⟨ahead_none s, h.2⟩

theorem cooldownExpiry_settles (n : Slot) {s t : State} (h : exec (.cooldownExpiry n) s = .next t) : Settles s t := by
  obtain rfl := Host.Outcome.next.inj h
  refine .ite (fun hdue => ?_) fun _ => .refl s
  have hst : (s.slotRec n).state = .tripped := by simpa using (Bool.and_eq_true_iff.mp hdue).1
  refine unpowered_settles rfl (fun _ => by simp [Unpowered, hst]) (fun _ => by simp [Unpowered]) id
    (fun hc hseat => ?_) (fun _ h => by cases h) (fun h => ?_) (fun _ => by simp) (fun hc => ?_) fun ha => ?_
  · rcases hc.unseated hseat with h | h <;> rw [hst] at h <;> cases h
  · rcases h with h | h <;> cases h
  · have hle := hc.tripLimit (by simp [hst])
    exact ⟨hle.trans (by decide), fun _ => hle⟩
  · obtain ⟨hp, hb, hf, hstable, -⟩ := ha
    exact ⟨hp, hb, hf, hstable, ahead_none s⟩

theorem unblockSlot_settles (n : Slot) (s : State) : Settles s (unblockSlot n s) := by
  by_cases hst : (s.slotRec n).state = .blocked
  case neg => rw [unblockSlot_unblocked hst]; exact .refl s
  rw [unblockSlot_blocked hst]
  refine unpowered_settles rfl (fun _ => by simp [Unpowered, hst]) (fun _ => ?_) id (fun _ hseat => ?_) (fun _ hempty => ?_) (fun h => ?_)
    (fun hc => ?_) (fun _ => ⟨Nat.zero_le _, fun _ => Nat.zero_le _⟩) fun ha => ha
  · dsimp only
    split <;> simp [Unpowered]
  · have hseat : (s.slotRec n).seated = false := hseat
    simp [hseat]
  · by_contra hseat
    have hseat : (s.slotRec n).seated = true := by simpa using hseat
    simp [hseat] at hempty
  · dsimp only at h
    split at h <;> simp at h
  · have hcool : ¬ (s.slotRec n).cooldown.isSome = true := fun h => by
      have htripped := hc.cooling.mp h
      rw [hst] at htripped
      cases htripped
    refine iff_of_false hcool ?_
    dsimp only
    split <;> simp

/-! ## Insertion (R147) -/

/-- The record of a slot that a module has come to. -/
def seatedRec (r : SlotRec) : SlotRec :=
  { r with seated := true, presence := none, state := if r.state = .empty then .idle else r.state }

theorem insertModule_settles {n : Slot} {s : State} (hseat : (s.slotRec n).seated = false) : Settles s (insertModule n s) := by
  have hstate (h : SlotCore s n) : (s.slotRec n).state = .empty ∨ (s.slotRec n).state = .blocked := h.unseated hseat
  have hrec : Settles s (s.setSlot n (seatedRec (s.slotRec n))) := by
    refine unpowered_settles rfl (fun h => ?_) (fun h => ?_) (fun h => (by cases h)) (fun _ h => (by cases h))
      (fun h hempty => ?_) (fun hst => ?_) (fun h => ?_) (fun h => ⟨h.trips, fun hne => h.tripLimit ?_⟩)
      RecAhead.of_presence
    · rcases hstate h with hst | hst <;> simp [Unpowered, hst]
    · rcases hstate h with hst | hst <;> simp [seatedRec, Unpowered, hst]
    · rcases hstate h with hst | hst <;> simp [seatedRec, hst] at hempty
    · by_cases hempty : (s.slotRec n).state = .empty
      · simp [seatedRec, hempty] at hst
      · simpa [seatedRec, hempty] using hst
    · refine h.cooling.trans ?_
      rcases hstate h with hst | hst <;> simp [seatedRec, hst]
    · rintro hst
      simp [seatedRec, hst] at hne
  exact hrec.trans ((setReplyNone_settles n _).trans (.raise ..))

end Sys2Proof.Machine
end

section
/-! PROOFS. What every step keeps, continued: the events that clear a slot, a cut and a turn-on (R24, R80, R148, R153, R155,
R160). -/

namespace Sys2Proof.Machine

/-! ## Several entries (R8, R9) -/

theorem retireAll_decides (c : Cause) {l : List Idx} (hn : l.Nodup) {s : State}
    (hl : ∀ i ∈ l, isStanding (s.entry i).state = true) : Decides s (retireAll c l s) := by
  induction l generalizing s with
  | nil => exact .refl s
  | cons i l ih =>
    obtain ⟨hi, hn⟩ := List.nodup_cons.mp hn
    refine (retireWith_decides (hl i (.head _)) fun _ => rfl).trans (ih hn fun j hj => ?_)
    have hother : (retireWith (some c) i s).entry j = s.entry j :=
      (retireWith_entry _ i j s).trans (if_neg (ne_of_mem_of_not_mem hj hi))
    rw [hother]
    exact hl j (.tail _ hj)

theorem freeAll_decides (l : List Idx) (s : State) : Decides s (freeAll l s) :=
  .foldl _ (fun s i => freeEntry_decides i s) l s

theorem isStanding_of_mem {s : State} {n : Slot} {i : Idx} (h : i ∈ entriesWhere s (ofSlotIn n isStanding)) :
    (s.entry i).slot = n ∧ isStanding (s.entry i).state = true :=
  ((ofSlotIn_iff ..).mp ((mem_entriesWhere ..).mp h)).2

theorem retireSlot_decides (c : Cause) (n : Slot) (s : State) : Decides s (retireSlot c n s) :=
  retireAll_decides c (nodup_entriesWhere ..) fun _ hi => (isStanding_of_mem hi).2

/-- A standing entry of the slot is RETIRED, every other is as it was. -/
theorem retireSlot_cases (c : Cause) (n : Slot) (s : State) (i : Idx) :
    (retireSlot c n s).entry i = s.entry i ∧ ofSlotIn n isStanding (s.entry i) = false
    ∨ ((retireSlot c n s).entry i).state = .retired ∧ ((retireSlot c n s).entry i).slot = n ∧ (s.entry i).slot = n
        ∧ (s.entry i).state ≠ .free := by
  rw [retireSlot, retireAll_entry _ _ (nodup_entriesWhere ..)]
  split
  · next hi =>
    obtain ⟨hslot, hst⟩ := isStanding_of_mem hi
    exact .inr ⟨rfl, hslot, hslot, isStanding_alive hst⟩
  · next hi => exact .inl ⟨rfl, by simpa [mem_entriesWhere] using hi⟩

/-- No entry of the slot stands any more. -/
theorem retireSlot_cleared (c : Cause) (n : Slot) (s : State) (i : Idx) :
    ofSlotIn n isStanding ((retireSlot c n s).entry i) = false := by
  rcases retireSlot_cases c n s i with ⟨hsame, hno⟩ | ⟨hst, -⟩
  · rw [hsame]
    exact hno
  · simp [ofSlotIn, hst, isStanding]

theorem needsPower_standing {st : EntryState} (h : needsPower st = true) : isStanding st = true := by
  revert h
  cases st <;> simp [needsPower, isStanding]

/-- A slot without standing entries has no need. -/
theorem hasNeed_of_cleared {s : State} {n : Slot} (h : ∀ i : Idx, ofSlotIn n isStanding (s.entry i) = false) :
    hasNeed s n = false := by
  refine Bool.eq_false_iff.mpr fun hneed => ?_
  obtain ⟨i, hslot, hi⟩ := (hasNeed_iff ..).mp hneed
  exact Bool.eq_false_iff.mp (h i) ((ofSlotIn_iff ..).mpr ⟨needsPower_ne_free hi, hslot, needsPower_standing hi⟩)

/-! ## A slot is cleared -/

/-- The record of slot n and the Inrush Queue have changed, and the entries of n alone are withdrawn after that. -/
structure Clears (s t : State) (n : Slot) : Prop where
  others : ∀ m, m ≠ n → t.slotRec m = s.slotRec m
  inrush : ∀ m, m ≠ n → (m ∈ t.inrush ↔ m ∈ s.inrush)
  sublist : t.inrush.Sublist s.inrush
  entries : ∀ i, t.entry i = s.entry i ∨ (s.entry i).slot = n ∧ ∀ m, m ≠ n → ofSlot m (t.entry i) = false

theorem Clears.hasNeed {s t : State} {n m : Slot} (h : Clears s t n) (hm : m ≠ n) : hasNeed t m = hasNeed s m := by
  rw [Bool.eq_iff_iff, hasNeed_iff, hasNeed_iff]
  refine exists_congr fun i => ?_
  rcases h.entries i with hi | ⟨hslot, hgone⟩
  · rw [hi]
  · refine iff_of_false (fun ⟨hs, hp⟩ => ?_) fun ⟨hs, _⟩ => hm (hs.symm.trans hslot)
    exact Bool.eq_false_iff.mp (hgone m hm) ((ofSlot_iff ..).mpr ⟨needsPower_ne_free hp, hs⟩)

theorem Clears.core {s t : State} {n m : Slot} (h : Clears s t n) (hm : m ≠ n) (hs : SlotCore s m) : SlotCore t m := by
  refine hs.of_entries (h.others m hm) (h.inrush m hm) (h.hasNeed hm) fun i hi => ?_
  rcases h.entries i with hsame | ⟨-, hgone⟩
  · rw [hsame] at hi ⊢
    exact ⟨hi, fun _ => id, id⟩
  · rw [hgone m hm] at hi
    cases hi

theorem Clears.slots {s t : State} {n : Slot} (h : Clears s t n) (hn : SlotCore t n) (hst : Unpowered (t.slotRec n).state)
    (hs : SlotsCore s) : SlotsCore t where
  slot m := by
    by_cases hm : m = n
    · exact hm ▸ hn
    · exact h.core hm (hs.slot m)
  nodup := hs.nodup.sublist h.sublist
  ordered := by
    have hkey (m : Slot) (hmem : m ∈ t.inrush) : t.slotRec m = s.slotRec m := by
      refine h.others m fun hm => ?_
      rw [hm, hn.inrush] at hmem
      exact hst.2.1 hmem
    exact (hs.ordered.sublist h.sublist).imp_of_mem fun {a b} ha hb hab => by rw [hkey a ha, hkey b hb]; exact hab

/-- Slot n's record becomes an unpowered one, then its entries are withdrawn: u is the state between. -/
theorem Keeps.of_clears {s u t : State} {n : Slot} (hu : u = { s with slots := u.slots, inrush := u.inrush })
    (hdecides : Decides u t) (hslots : t.slots = u.slots) (hclears : Clears s t n)
    (hst : Sound s → Unpowered (u.slotRec n).state) (hcore : Sound s → SlotCore t n)
    (hahead : RecAhead s (s.slotRec n) → RecAhead s (u.slotRec n)) : Keeps s t := by
  have honly : ContractsOnly s t := ContractsOnly.trans (by rw [hu]; constructor <;> rfl) hdecides.only
  have htable : u.table = s.table := by rw [hu]
  have hwait : u.waitQueue = s.waitQueue := by rw [hu]
  have hadm : u.admission = s.admission := by rw [hu]
  have hbox : u.outboxes = s.outboxes := by rw [hu]
  have hnext : u.nextItem = s.nextItem := by rw [hu]
  have hnow : u.now = s.now := by rw [hu]
  have hcapacity : u.capacity = s.capacity := by rw [hu]
  have hsupply : u.supply = s.supply := by rw [hu]
  have hentry := entry_of_table htable
  have hlists (h : ListsOk s) : ListsOk u :=
    h.of_kinds hwait hadm fun i => by rw [hentry]; exact ⟨Iff.rfl, rfl, rfl⟩
  have hrec (m : Slot) : t.slotRec m = u.slotRec m := slotRec_of_slots hslots m
  have hentries (h : EntriesOk s) : EntriesOk u := fun i => by rw [hentry]; exact h i
  refine ⟨.of_only honly, fun h => hdecides.lists (hlists h), fun _ h => h.of_only honly, fun h => ?_⟩
  have hunpowered : Unpowered (t.slotRec n).state := by rw [hrec]; exact hst h
  refine h.of_only honly
    { entries := hdecides.entries (hentries h.contracts.entries)
      ahead := hdecides.ahead fun i => by rw [hentry]; exact (h.contracts.ahead i).of_now hnow
      lists := hdecides.lists (hlists h.contracts.lists)
      limits := hdecides.limits (h.contracts.limits.of_entries fun i hi => by rw [hentry] at hi ⊢; exact ⟨hi, rfl, rfl⟩)
      notices := hdecides.notices (h.contracts.notices.of_same htable hbox hnext)
      slots := hclears.slots (hcore h) hunpowered h.contracts.slots
      slotsAhead := fun m => ?_ } (fun i hi => ?_) (hdecides.covered (hentries h.contracts.entries) ?_) fun m => ?_
  · by_cases hm : m = n
    · rw [hm, hrec]
      exact (hahead (h.contracts.slotsAhead n)).of_now honly.now
    · rw [hclears.others m hm]
      exact (h.contracts.slotsAhead m).of_now honly.now
  · have hi := hdecides.admits i hi
    rwa [hentry, hsupply] at hi
  · rw [Covered, heldTotal_of_table htable, pendingTotal_of_table htable, hcapacity]
    exact h.covered
  · by_cases hm : m = n
    · rw [hm]
      exact ⟨fun hp => (hp.elim hunpowered.1 hunpowered.2.1).elim, fun hp => (hunpowered.2.2 hp).elim⟩
    · exact (h.supplied m).of_rec honly.supply (.inl (hclears.others m hm))

/-- The slot's record and its place in the Inrush Queue change, then its standing entries are RETIRED. -/
theorem clears_of_retireSlot {s u : State} {n : Slot} (c : Cause) (hu : u = { s with slots := u.slots, inrush := u.inrush })
    (hother : ∀ m, m ≠ n → u.slotRec m = s.slotRec m) (hst : Unpowered (u.slotRec n).state)
    (hinrush : u.inrush = s.inrush.filter (· != n) ∨ u.inrush = s.inrush) :
    (retireSlot c n u).slots = u.slots ∧ Clears s (retireSlot c n u) n := by
  have hkept := retireAll_slots c n (entriesWhere u (ofSlotIn n isStanding)) u (fun i hi => (isStanding_of_mem hi).1) hst.1
    hst.2.1 hst.2.2
  have hslots : (retireSlot c n u).slots = u.slots := hkept.1
  have hq : (retireSlot c n u).inrush = u.inrush := hkept.2
  have hentry := entry_of_table (s := s) (t := u) (by rw [hu])
  refine ⟨hslots, fun m hm => (slotRec_of_slots hslots m).trans (hother m hm), fun m hm => ?_, ?_, fun i => ?_⟩
  · rw [hq]
    rcases hinrush with h | h <;> rw [h]
    simp [hm]
  · rw [hq]
    rcases hinrush with h | h <;> rw [h]
    exact List.filter_sublist
  · rcases retireSlot_cases c n u i with ⟨hsame, -⟩ | ⟨-, hslot, hold, -⟩
    · exact .inl (hsame.trans (hentry i))
    · rw [hentry] at hold
      exact .inr ⟨hold, fun m hm => Bool.eq_false_iff.mpr fun hof => hm ((ofSlot_slot hof).symm.trans hslot)⟩

/-- Slot n is in order once its record is an unpowered one and its standing entries are RETIRED. -/
theorem retired_core {s u : State} {n : Slot} (c : Cause) (hs : SlotCore s n)
    (hu : u = { s with slots := u.slots, inrush := u.inrush }) (hst : Unpowered (u.slotRec n).state)
    (hoff : (u.slotRec n).switch = false ∧ (u.slotRec n).key = none ∧ n ∉ u.inrush ∧ (u.slotRec n).blanking = none
      ∧ (u.slotRec n).fault = none ∧ (u.slotRec n).stable = none)
    (hseated : (u.slotRec n).seated = (s.slotRec n).seated)
    (unseated : (u.slotRec n).seated = false → (u.slotRec n).state = .empty ∨ (u.slotRec n).state = .blocked)
    (hne : (u.slotRec n).state ≠ .empty)
    (cooling : (u.slotRec n).cooldown.isSome = true ↔ (u.slotRec n).state = .tripped)
    (trips : (u.slotRec n).trips ≤ 15) (tripLimit : (u.slotRec n).state ≠ .blocked → (u.slotRec n).trips ≤ 14) :
    SlotCore (retireSlot c n u) n := by
  have hkept := retireAll_slots c n (entriesWhere u (ofSlotIn n isStanding)) u (fun i hi => (isStanding_of_mem hi).1) hst.1
    hst.2.1 hst.2.2
  have hrec : (retireSlot c n u).slotRec n = u.slotRec n := slotRec_of_slots (s := u) hkept.1 n
  have hq : (retireSlot c n u).inrush = u.inrush := hkept.2
  have hentry := entry_of_table (s := s) (t := u) (by rw [hu])
  obtain ⟨hswitch, hkey, hinrush, htimers⟩ := hoff
  apply SlotCore.of_unpowered <;> rw [hrec]
  · exact hst
  · rw [hq]
    exact ⟨hswitch, hkey, hinrush, hasNeed_of_cleared (retireSlot_cleared c n u), htimers⟩
  · exact unseated
  · exact fun h => absurd h hne
  · intro hseat i
    rw [hseated] at hseat
    rcases retireSlot_cases c n u i with ⟨hsame, -⟩ | ⟨-, -, hold, hfree⟩
    · rw [hsame, hentry]
      exact hs.vacant hseat i
    · rw [hentry] at hold hfree
      exact absurd ((ofSlot_iff ..).mpr ⟨hfree, hold⟩) (Bool.eq_false_iff.mp (hs.vacant hseat i))
  · exact fun _ => retireSlot_cleared c n u
  · exact cooling
  · exact trips
  · exact tripLimit

/-! ## A trip (R155) -/

theorem trippedSlot_unpowered (s : State) (r : SlotRec) :
    (trippedSlot s r).state = .blocked ∨ (trippedSlot s r).state = .tripped := by
  unfold trippedSlot
  dsimp only
  split
  · exact .inl rfl
  · exact .inr rfl

theorem trippedContracts_keeps {n : Slot} {s : State} (hon : (s.slotRec n).state = .on) : Keeps s (trippedContracts n s) := by
  have hrec : (s.setSlot n (trippedSlot s (s.slotRec n))).slotRec n = trippedSlot s (s.slotRec n) := slotRec_setSlot_same ..
  have hst : Unpowered ((s.setSlot n (trippedSlot s (s.slotRec n))).slotRec n).state := by
    rw [hrec]
    rcases trippedSlot_unpowered s (s.slotRec n) with h | h <;> simp [Unpowered, h]
  obtain ⟨hslots, hclears⟩ := clears_of_retireSlot .fault (s := s) (u := s.setSlot n (trippedSlot s (s.slotRec n))) rfl
    (fun m hm => slotRec_setSlot_ne s _ hm) hst (.inr rfl)
  refine .of_clears (s := s) rfl (retireSlot_decides .fault n _) hslots hclears (fun _ => hst) (fun h => ?_) fun ha => ?_
  · have hcore := h.contracts.slots.slot n
    have hlimit : activeItem s .triplim ≤ 15 := (h.config.1 .triplim (mem_allItems _)).2
    have htrips : (s.slotRec n).trips ≤ 14 := hcore.tripLimit (by simp [hon])
    have hcool : (s.slotRec n).cooldown.isSome = false := by
      rw [Bool.eq_false_iff, Ne, hcore.cooling]
      simp [hon]
    have hinrush : n ∉ s.inrush := by
      rw [hcore.inrush]
      simp [hon]
    have hseat : (s.slotRec n).seated = true := by
      by_contra hseat
      rcases hcore.unseated (by simpa using hseat) with h | h <;> rw [hon] at h <;> cases h
    refine retired_core .fault hcore rfl hst ?_ ?_ ?_ ?_ ?_ ?_ ?_ <;> rw [hrec] <;> unfold trippedSlot <;> dsimp only
      <;> split <;> simp_all [switchedOff] <;> omega
  · rw [hrec]
    obtain ⟨hp, -, -, -, hc⟩ := ha
    unfold trippedSlot
    dsimp only
    split
    · exact ⟨hp, ahead_none s, ahead_none s, ahead_none s, hc⟩
    · exact ⟨hp, ahead_none s, ahead_none s, ahead_none s, ahead_expiryAfter s _⟩

theorem tripSlot_settles {n : Slot} {s : State} (hon : (s.slotRec n).state = .on) : Settles s (tripSlot n s) :=
  Keeps.rebalanced <| ((trippedContracts_keeps hon).trans (.raise ..)).trans (.ite (fun _ => .raise ..) fun _ => .refl _)

theorem trip_settles (n : Slot) {s t : State} (h : exec (.trip n) s = .next t) : Settles s t := by
  obtain rfl := Host.Outcome.next.inj h
  refine .ite (fun hdue => tripSlot_settles ?_) fun _ => .refl s
  simpa using (Bool.and_eq_true_iff.mp hdue).1

/-! ## BLOCK (R160) -/

theorem slotBlocked_eq (n : Slot) (s : State) :
    slotBlocked n s = { s with slots := (slotBlocked n s).slots, inrush := s.inrush.filter (· != n) } := rfl

theorem slotBlocked_keeps (n : Slot) (s : State) : Keeps s (retireSlot .blocked n (slotBlocked n s)) := by
  have hrec : (slotBlocked n s).slotRec n = { switchedOff (s.slotRec n) with state := .blocked, key := none, cooldown := none } :=
    slotRec_setSlot_same ..
  have hst : Unpowered ((slotBlocked n s).slotRec n).state := by
    rw [hrec]
    simp [Unpowered]
  obtain ⟨hslots, hclears⟩ := clears_of_retireSlot .blocked (slotBlocked_eq n s)
    (fun m hm => slotRec_setSlot_ne s _ hm) hst (.inl rfl)
  refine .of_clears (slotBlocked_eq n s) (retireSlot_decides .blocked n _) hslots hclears (fun _ => hst) (fun h => ?_)
    fun ha => ?_
  · have hcore := h.contracts.slots.slot n
    refine retired_core .blocked hcore (slotBlocked_eq n s) hst ?_ ?_ ?_ ?_ ?_ ?_ ?_ <;> rw [hrec]
    · exact ⟨rfl, rfl, by simp [slotBlocked, leaveInrush], rfl, rfl, rfl⟩
    · rfl
    · exact fun _ => .inr rfl
    · simp
    · simp
    · exact hcore.trips
    · simp
  · rw [hrec]
    exact ⟨ha.1, ahead_none s, ahead_none s, ahead_none s, ahead_none s⟩

theorem blockSlot_settles (n : Slot) (s : State) : Settles s (blockSlot n s) := by
  by_cases hst : (s.slotRec n).state = .blocked
  · rw [blockSlot_blocked hst]
    exact .refl s
  · rw [show blockSlot n s = judgeDeficit (rebalance (raise .slotBlock (retireSlot .blocked n (slotBlocked n s)))) from
      if_neg hst]
    exact ((slotBlocked_keeps n s).trans (.raise ..)).rebalanced

/-! ## A removal (R24, R115, R148) -/

/-- A slot without entries has no notice that belongs to it, and its outbox is emptied (R115). -/
theorem emptyOutbox_keeps {n : Slot} {s : State} (hnone : ∀ i : Idx, ofSlot n (s.entry i) = false) :
    Keeps s (s.setOutbox n emptyOutbox) := by
  refine (Settles.of_outboxes (setOutbox_only ..) rfl rfl rfl rfl rfl fun h => ?_).toKeeps
  refine h.of_kept (t := s.setOutbox n emptyOutbox) le_rfl (fun m r hr => ?_) (fun m => ?_) (fun m x _ hof => hof) fun i hi => ?_
  · rw [outbox_setOutbox] at hr
    split at hr
    · cases hr
    · exact h.reply_lt hr
  · rw [outbox_setOutbox]
    split
    · exact List.nil_sublist _
    · exact List.Sublist.refl _
  · have hslot : (s.entry i).slot ≠ n := fun hslot =>
      Bool.eq_false_iff.mp (hnone i) ((ofSlot_iff ..).mpr ⟨by rw [entry_setOutbox] at hi; simp [hi], hslot⟩)
    refine noticePending_of_kept (fun x hx _ _ => ?_) (h.2 i hi)
    rw [entry_setOutbox, outbox_setOutbox_ne _ _ hslot]
    exact hx

theorem freeSlot_vacant (n : Slot) (s : State) (i : Idx) : ofSlot n ((freeSlot n s).entry i) = false := by
  rw [freeSlot_entry]
  split
  · simp [ofSlot, blankEntry]
  · next h => simpa using h

/-- The slot's part of a removal and the freeing of its entries. -/
theorem vacated_keeps (n : Slot) (s : State) : Keeps s (freeSlot n (emptyOfModule n s)) := by
  obtain ⟨hslots, hq⟩ := freeSlot_slots (emptyOfModule_state n s)
  have hst : Unpowered ((emptyOfModule n s).slotRec n).state := by
    rcases emptyOfModule_state n s with h | h <;> simp [Unpowered, h]
  have hinrush : (emptyOfModule n s).inrush = s.inrush.filter (· != n) ∨ (emptyOfModule n s).inrush = s.inrush := by
    by_cases hb : (s.slotRec n).state = .blocked
    · rw [emptyOfModule_blocked hb]
      exact .inr rfl
    · rw [emptyOfModule_unblocked hb]
      exact .inl rfl
  have hclears : Clears s (freeSlot n (emptyOfModule n s)) n := by
    refine ⟨fun m hm => (slotRec_of_slots hslots m).trans (emptyOfModule_slotRec_ne hm s), fun m hm => ?_, ?_, fun i => ?_⟩
    · rw [hq]
      rcases hinrush with h | h <;> rw [h]
      simp [hm]
    · rw [hq]
      rcases hinrush with h | h <;> rw [h]
      exact List.filter_sublist
    · rw [freeSlot_entry, emptyOfModule_entry]
      split
      · next h => exact .inr ⟨ofSlot_slot h, fun m _ => by simp [ofSlot, blankEntry]⟩
      · exact .inl rfl
  refine .of_clears (emptyOfModule_eq n s) (freeAll_decides _ _) hslots hclears (fun _ => hst) (fun h => ?_) fun ha => ?_
  · have hcore := h.contracts.slots.slot n
    have hvacant := freeSlot_vacant n (emptyOfModule n s)
    have hcleared (i : Idx) : ofSlotIn n isStanding ((freeSlot n (emptyOfModule n s)).entry i) = false := by
      rw [ofSlotIn, hvacant i, Bool.false_and]
    have hneed := hasNeed_of_cleared hcleared
    apply SlotCore.of_unpowered <;> rw [slotRec_of_slots hslots n]
    · exact hst
    · rw [hq]
      by_cases hb : (s.slotRec n).state = .blocked
      · obtain ⟨hswitch, hkey, hnot, -, htimers⟩ := hcore.not_on (by simp [Unpowered, hb])
        rw [emptyOfModule_blocked hb, slotRec_setSlot_same]
        rw [emptyOfModule_blocked hb] at hneed
        exact ⟨hswitch, hkey, hnot, hneed, htimers⟩
      · rw [emptyOfModule_unblocked hb, leaveInrush_slotRec, slotRec_setSlot_same]
        rw [emptyOfModule_unblocked hb] at hneed
        exact ⟨rfl, rfl, by simp [leaveInrush], hneed, rfl, rfl, rfl⟩
    · exact fun _ => (emptyOfModule_state n s).symm
    · intro hempty
      by_cases hb : (s.slotRec n).state = .blocked
      · rw [emptyOfModule_blocked hb, slotRec_setSlot_same]
      · rw [emptyOfModule_unblocked hb, leaveInrush_slotRec, slotRec_setSlot_same]
    · exact fun _ => hvacant
    · exact fun _ => hcleared
    · by_cases hb : (s.slotRec n).state = .blocked
      · rw [emptyOfModule_blocked hb, slotRec_setSlot_same]
        exact hcore.cooling
      · rw [emptyOfModule_unblocked hb, leaveInrush_slotRec, slotRec_setSlot_same]
        simp
    · by_cases hb : (s.slotRec n).state = .blocked
      · rw [emptyOfModule_blocked hb, slotRec_setSlot_same]
        exact hcore.trips
      · rw [emptyOfModule_unblocked hb, leaveInrush_slotRec, slotRec_setSlot_same]
        exact hcore.trips
    · by_cases hb : (s.slotRec n).state = .blocked
      · rw [emptyOfModule_blocked hb, slotRec_setSlot_same]
        exact hcore.tripLimit
      · exact fun _ => by
          rw [emptyOfModule_unblocked hb, leaveInrush_slotRec, slotRec_setSlot_same]
          exact hcore.tripLimit hb
  · by_cases hb : (s.slotRec n).state = .blocked
    · rw [emptyOfModule_blocked hb, slotRec_setSlot_same]
      exact ha.of_presence
    · rw [emptyOfModule_unblocked hb, leaveInrush_slotRec, slotRec_setSlot_same]
      exact ⟨ahead_none s, ahead_none s, ahead_none s, ahead_none s, ahead_none s⟩

theorem removeModule_settles (n : Slot) (s : State) : Settles s (removeModule n s) :=
  (((vacated_keeps n s).trans (emptyOutbox_keeps (freeSlot_vacant n _))).trans (.raise ..)).rebalanced

theorem presenceTimerExpiry_settles (n : Slot) {s t : State} (h : exec (.presenceTimerExpiry n) s = .next t) : Settles s t := by
  obtain rfl := Host.Outcome.next.inj h
  exact .ite (fun _ => .ite (fun _ => removeModule_settles n s) fun hseat => insertModule_settles (by simpa using hseat))
    fun _ => .refl s

/-! ## A cut (R80, R159) -/

/-- A slot that agrees with its entries and has no need left is IDLE already, so the cut leaves its record. -/
theorem cutRec_noNeed {n : Slot} {s : State} (hs : SlotCore s n) (hneed : hasNeed s n = false) : cutRec n s = s := by
  have hst := mt hs.need.mpr (by simp [hneed])
  simp only [not_or] at hst
  exact cutRec_unpowered hst.2.1 hst.1 hst.2.2

theorem cutRec_keeps {n : Slot} {s : State} (hneed : hasNeed s n = false) : Keeps s (cutRec n s) where
  undisturbed := .of_only (cutRec_only n s)
  lists h := h.of_kinds (cutRec_waitQueue n s) (cutRec_admission n s) fun i => by
    rw [entry_of_table (cutRec_table n s)]
    exact ⟨Iff.rfl, rfl, rfl⟩
  supply _ := .of_only (cutRec_only n s)
  sound h := by
    rw [cutRec_noNeed (h.contracts.slots.slot n) hneed]
    exact h

theorem cutSlot_settles (n : Slot) (s : State) : Settles s (cutSlot n s) :=
  ((((retireSlot_decides .enforced n s).keeps).trans
    (cutRec_keeps (hasNeed_of_cleared (retireSlot_cleared .enforced n s)))).trans (.raise ..)).rebalanced

/-! ## PURGE (R23, R114, R162, R173) -/

theorem purgeContracts_free (s : State) (i : Idx) : ((purgeContracts s).entry i).state = .free := by
  rw [purgeContracts_entry]
  split
  · next h => exact h
  · rfl

theorem purgeContracts_outbox (s : State) (n : Slot) : (purgeContracts s).outbox n = emptyOutbox := by
  show (Vector.replicate 12 emptyOutbox)[n] = emptyOutbox
  exact Vector.getElem_replicate ..

theorem purgeContracts_lists (s : State) : ListsOk (purgeContracts s) :=
  ⟨List.nodup_nil, List.nodup_nil, fun i => iff_of_false List.not_mem_nil (by simp [purgeContracts_free]),
    fun i => iff_of_false List.not_mem_nil (by simp [purgeContracts_free, isAdmitted]), List.Pairwise.nil⟩

theorem purgeContracts_notices (s : State) : NoticesOk (purgeContracts s) := by
  refine ⟨fun n => ?_, fun i hi => ?_⟩
  · rw [OutboxOk, purgeContracts_outbox]
    exact ⟨List.Pairwise.nil, fun x hx => absurd hx List.not_mem_nil, fun r hr => by cases hr⟩
  · rw [purgeContracts_free] at hi
    cases hi

/-- The freeing of all entries leaves nothing behind but the lists and outboxes that PURGE clears (R23, R114). -/
theorem purgeContracts_keeps (s : State) : Keeps s (purgeContracts s) where
  undisturbed := .of_only (purgeContracts_only s)
  lists _ := purgeContracts_lists s
  supply _ := .of_only (purgeContracts_only s)
  sound h := by
    have hfreed := freeAll_decides (entriesWhere s fun e => e.state != .free) s
    have hcontracts := hfreed.contracts h.contracts
    refine h.of_only (purgeContracts_only s)
      { entries := hcontracts.entries, ahead := hcontracts.ahead, lists := purgeContracts_lists s,
        limits := hcontracts.limits, notices := purgeContracts_notices s,
        slots := SlotsCore.of_keepsNeed (s := freeAll (entriesWhere s fun e => e.state != .free) s) rfl rfl
          (fun _ => .refl _) hcontracts.slots,
        slotsAhead := hcontracts.slotsAhead } hfreed.admits (hfreed.covered h.contracts.entries h.covered)
      fun n => (h.supplied n).of_rec (t := purgeContracts s) (purgeContracts_only s).supply (hfreed.recs n)

theorem purgeSlots_noNeed {s : State} (hs : SlotsCore s) (hneed : ∀ n, hasNeed s n = false) : purgeSlots s = s := by
  have hst (n : Slot) : (s.slotRec n).state ≠ .queued ∧ (s.slotRec n).state ≠ .on ∧ (s.slotRec n).state ≠ .suspended := by
    simpa only [not_or] using mt (hs.slot n).need.mpr (by simp [hneed n])
  have hslots : (purgeSlots s).slots = s.slots := slots_ext fun n => by
    rw [purgeSlots_slotRec, purgedRec_unpowered]
    obtain ⟨hqueued, hon, hsuspended⟩ := hst n
    revert hqueued hon hsuspended
    cases (s.slotRec n).state <;> simp
  have hinrush : s.inrush = [] := List.eq_nil_iff_forall_not_mem.mpr fun n hn => (hst n).1 ((hs.slot n).inrush.mp hn)
  rw [purgeSlots_eq, hslots, ← hinrush]

theorem purgeSlots_keeps {s : State} (hneed : ∀ n, hasNeed s n = false) : Keeps s (purgeSlots s) where
  undisturbed := .of_only (purgeSlots_only s)
  lists h := h.of_kinds (by rw [purgeSlots_eq]) (by rw [purgeSlots_eq]) fun i => by
    rw [entry_of_table (purgeSlots_table s)]
    exact ⟨Iff.rfl, rfl, rfl⟩
  supply _ := .of_only (purgeSlots_only s)
  sound h := by
    rw [purgeSlots_noNeed h.contracts.slots hneed]
    exact h

/-- PURGE up to the answer it leaves in CMD and RESULT. -/
theorem purge_settles (s : State) : Settles s (judgeDeficit (purgeSlots (purgeContracts s))) := by
  refine ((purgeContracts_keeps s).trans (purgeSlots_keeps fun n => hasNeed_of_cleared fun i => ?_)).judged
  simp [ofSlotIn, ofSlot, purgeContracts_free]

/-! ## A turn-on (R152, R153) -/

/-- The entry once its slot is on. -/
def energizedEntry (n : Slot) (e : Entry) : Entry :=
  if e.slot = n ∧ e.state = .enabling then { e with state := poweredState e } else e

theorem EntryOk.powered {e : Entry} (h : EntryOk e) (hs : e.state = .enabling) : EntryOk { e with state := poweredState e } := by
  obtain ⟨-, hlevels, hadm, -, -, -, -, htarget, hcause, hdeadline, hperiod, hlease⟩ := h
  have hheld := hadm (by simp [hs, isAdmitted])
  simp only [hs, countsLease] at hlevels htarget hcause hdeadline hperiod
  unfold poweredState
  split
  · next hfull => simp_all [EntryOk, isAdmitted, countsLease]
  · next hshort =>
    have hlt : e.held < e.requested := lt_of_le_of_ne hheld.2 hshort
    simp_all [EntryOk, isAdmitted, countsLease]

theorem energizedEntry_cases (n : Slot) (e : Entry) :
    energizedEntry n e = e ∧ ¬ (e.slot = n ∧ e.state = .enabling)
    ∨ energizedEntry n e = { e with state := poweredState e } ∧ e.slot = n ∧ e.state = .enabling := by
  unfold energizedEntry
  split
  · next h => exact .inr ⟨rfl, h⟩
  · next h => exact .inl ⟨rfl, h⟩

theorem energizedEntry_keepsNeed (n : Slot) (e : Entry) : KeepsNeed e (energizedEntry n e) := by
  rcases energizedEntry_cases n e with ⟨h, -⟩ | ⟨h, -, hst⟩ <;> rw [h]
  · exact .refl e
  · rcases poweredState_live e with hp | hp <;> constructor <;> simp [hp, hst, needsPower, isStanding]

theorem energizedEntry_same (n : Slot) (e : Entry) : (energizedEntry n e).held = e.held
    ∧ pendingOf (energizedEntry n e) = pendingOf e ∧ isAdmitted (energizedEntry n e).state = isAdmitted e.state
    ∧ ((energizedEntry n e).state = .waiting ↔ e.state = .waiting) ∧ (energizedEntry n e).cls = e.cls := by
  rcases energizedEntry_cases n e with ⟨h, -⟩ | ⟨h, -, hst⟩ <;> rw [h]
  · exact ⟨rfl, rfl, rfl, Iff.rfl, rfl⟩
  · rcases poweredState_live e with hp | hp <;> simp [pendingOf, hp, hst, isAdmitted]

/-- An ENABLING entry has at most a LEASE_WARN pending, which fits the powered entry too (R106). -/
theorem NoticeOf.energized {n m : Slot} {e : Entry} {x : Notice} (h : NoticeOf e m x) : NoticeOf (energizedEntry n e) m x := by
  rcases energizedEntry_cases n e with ⟨he, -⟩ | ⟨he, -, hst⟩ <;> rw [he]
  · exact h
  · obtain ⟨hslot, hgen, htag, hfits⟩ := h
    refine ⟨hslot, hgen, htag, ?_⟩
    rcases poweredState_live e with hp | hp <;> revert hfits <;> cases hk : x.kind <;>
      simp [noticeFits, hk, hst, hp, countsLease]

/-- The slot switched on with its entries, before the turn-on is remembered. -/
def poweredOn (n : Slot) (s : State) : State := energize n (switchedOn n s)

theorem poweredOn_only (n : Slot) (s : State) : ContractsOnly s (poweredOn n s) :=
  ((setSlot_only n (onRec s n) s).trans (leaveInrush_only ..)).trans (energize_only ..)

theorem poweredOn_eq (n : Slot) (s : State) :
    poweredOn n s = { switchedOn n s with table := (poweredOn n s).table } := energize_eq n _

theorem poweredOn_entry (n : Slot) (s : State) (i : Idx) : (poweredOn n s).entry i = energizedEntry n (s.entry i) :=
  energize_entry n (switchedOn n s) i

theorem poweredOn_slotRec (n : Slot) (s : State) (m : Slot) :
    (poweredOn n s).slotRec m = if m = n then onRec s n else s.slotRec m := by
  rw [poweredOn_eq]
  exact slotRec_setSlot s n m (onRec s n)

theorem poweredOn_inrush (n : Slot) (s : State) : (poweredOn n s).inrush = s.inrush.filter (· != n) := by
  rw [poweredOn_eq]
  rfl

theorem poweredOn_outboxes (n : Slot) (s : State) :
    (poweredOn n s).outboxes = s.outboxes ∧ (poweredOn n s).nextItem = s.nextItem := by
  rw [poweredOn_eq]
  exact ⟨rfl, rfl⟩

theorem poweredOn_heldTotal (n : Slot) (s : State) :
    heldTotal (poweredOn n s) = heldTotal s ∧ pendingTotal (poweredOn n s) = pendingTotal s := by
  constructor
  · unfold heldTotal
    simp only [poweredOn_entry, (energizedEntry_same n _).1]
  · unfold pendingTotal
    simp only [poweredOn_entry, (energizedEntry_same n _).2.1]

theorem poweredOn_lists {n : Slot} {s : State} (h : ListsOk s) : ListsOk (poweredOn n s) := by
  refine h.of_kinds (by rw [poweredOn_eq]; rfl) (by rw [poweredOn_eq]; rfl) fun i => ?_
  obtain ⟨-, -, hadm, hwait, hcls⟩ := energizedEntry_same n (s.entry i)
  rw [poweredOn_entry]
  exact ⟨hwait, hadm, hcls⟩

theorem poweredOn_notices {n : Slot} {s : State} (h : NoticesOk s) : NoticesOk (poweredOn n s) := by
  obtain ⟨hbox, hnext⟩ := poweredOn_outboxes n s
  refine h.of_kept hnext.ge (fun m r hr => ?_) (fun m => ?_) (fun m x _ hof => ?_) fun i hi => ?_
  · rw [outbox_of_outboxes hbox] at hr
    rw [hnext]
    exact h.reply_lt hr
  · rw [outbox_of_outboxes hbox]
  · rw [poweredOn_entry]
    exact hof.energized
  · rw [poweredOn_entry] at hi ⊢
    rcases energizedEntry_cases n (s.entry i) with ⟨he, -⟩ | ⟨he, -⟩
    · rw [he] at hi ⊢
      exact noticePending_of_kept (fun x hx _ _ => by rw [outbox_of_outboxes hbox]; exact hx) (h.2 i hi)
    · rw [he] at hi
      rcases poweredState_live (s.entry i) with hp | hp <;> rw [hp] at hi <;> cases hi

theorem poweredOn_slots {n : Slot} {s : State} (hqueued : (s.slotRec n).state = .queued) (h : SlotsCore s) :
    SlotsCore (poweredOn n s) := by
  have hother {m : Slot} (hm : m ≠ n) : (poweredOn n s).slotRec m = s.slotRec m := by
    rw [poweredOn_slotRec, if_neg hm]
  have hneed := hasNeed_of_keepsNeed (s := s) (t := poweredOn n s) fun i => by
    rw [poweredOn_entry]
    exact energizedEntry_keepsNeed n _
  have halive (m : Slot) (i : Idx) (hi : ofSlot m ((poweredOn n s).entry i) = true) : ofSlot m (s.entry i) = true
      ∧ ((s.slotRec m).state = .on → ((poweredOn n s).entry i).state = .enabling → (s.entry i).state = .enabling)
      ∧ (isStanding ((poweredOn n s).entry i).state = true → isStanding (s.entry i).state = true) := by
    have hkeeps := energizedEntry_keepsNeed n (s.entry i)
    rw [poweredOn_entry] at hi ⊢
    obtain ⟨hfree, hslot⟩ := (ofSlot_iff ..).mp hi
    obtain ⟨hold, hsame⟩ := hkeeps.alive hfree
    exact ⟨(ofSlot_iff ..).mpr ⟨hold, hsame ▸ hslot⟩, fun _ => hkeeps.enabling, hkeeps.standing⟩
  refine ⟨fun m => ?_, ?_, ?_⟩
  · by_cases hm : m = n
    case neg =>
      refine (h.slot m).of_entries (hother hm) ?_ (hneed m) (halive m)
      rw [poweredOn_inrush]
      simp [hm]
    subst hm
    have hs := h.slot m
    have hrec : (poweredOn m s).slotRec m = onRec s m := by rw [poweredOn_slotRec, if_pos rfl]
    have hseated : (s.slotRec m).seated = true := by
      by_contra hseat
      rcases hs.unseated (by simpa using hseat) with hst | hst <;> rw [hqueued] at hst <;> cases hst
    have hcool : ¬ (s.slotRec m).cooldown.isSome = true := fun hc => by
      have := hs.cooling.mp hc
      rw [hqueued] at this
      cases this
    have hpower : hasNeed s m = true := hs.need.mpr (.inl hqueued)
    refine
      { switch := by simp [hrec, onRec], key := by simp [hrec, onRec], inrush := by simp [hrec, onRec, poweredOn_inrush],
        need := by simp [hrec, onRec, hneed, hpower], energized := fun _ i hslot hst => ?_,
        unseated := by simp [hrec, onRec, hseated], empty := by simp [hrec, onRec],
        vacant := by simp [hrec, onRec, hseated], cleared := by simp [hrec, onRec], timed := by simp [hrec, onRec],
        cooling := by simpa [hrec, onRec] using hcool, trips := by rw [hrec]; exact hs.trips,
        tripLimit := fun _ => by rw [hrec]; exact hs.tripLimit (by simp [hqueued]) }
    rw [poweredOn_entry] at hslot hst
    rcases energizedEntry_cases m (s.entry i) with ⟨he, hno⟩ | ⟨he, -⟩ <;> rw [he] at hslot hst
    · exact hno ⟨hslot, hst⟩
    · rcases poweredState_live (s.entry i) with hp | hp <;> rw [hp] at hst <;> cases hst
  · rw [poweredOn_inrush]
    exact h.nodup.filter _
  · rw [poweredOn_inrush]
    refine (h.ordered.sublist List.filter_sublist).imp_of_mem fun {a b} ha hb hab => ?_
    rw [hother (by simpa using (List.mem_filter.mp hb).2), hother (by simpa using (List.mem_filter.mp ha).2)]
    exact hab

theorem startTimer_ahead (s : State) (x : Item) : Ahead s (startTimer s x) := by
  unfold startTimer
  split
  · exact ahead_none s
  · exact ahead_expiryAfter s _

theorem poweredOn_contracts {n : Slot} {s : State} (hqueued : (s.slotRec n).state = .queued) (h : Contracts s) :
    Contracts (poweredOn n s) where
  entries i := by
    rw [poweredOn_entry]
    rcases energizedEntry_cases n (s.entry i) with ⟨he, -⟩ | ⟨he, -, hst⟩ <;> rw [he]
    · exact h.entries i
    · exact (h.entries i).powered hst
  ahead i := by
    refine .of_now (poweredOn_only n s).now ?_
    rw [poweredOn_entry]
    rcases energizedEntry_cases n (s.entry i) with ⟨he, -⟩ | ⟨he, -, -⟩ <;> rw [he] <;> exact h.ahead i
  lists := poweredOn_lists h.lists
  limits := h.limits.of_entries fun i hi => by
    rw [poweredOn_entry] at hi ⊢
    obtain ⟨hfree, hslot⟩ := (energizedEntry_keepsNeed n (s.entry i)).alive hi
    refine ⟨hfree, hslot, ?_⟩
    rcases energizedEntry_cases n (s.entry i) with ⟨he, -⟩ | ⟨he, -, -⟩ <;> rw [he]
  notices := poweredOn_notices h.notices
  slots := poweredOn_slots hqueued h.slots
  slotsAhead m := by
    refine .of_now (poweredOn_only n s).now ?_
    rw [poweredOn_slotRec]
    split
    · obtain ⟨hpresence, -, -, -, hcooldown⟩ := h.slotsAhead n
      exact ⟨hpresence, startTimer_ahead s _, ahead_none s, startTimer_ahead s _, hcooldown⟩
    · exact h.slotsAhead m

theorem poweredOn_sound {n : Slot} {s : State} (hqueued : n ∈ s.inrush) (hop : s.supply = .operating) (h : Sound s) :
    Sound (poweredOn n s) := by
  have hst := (h.contracts.slots.slot n).inrush.mp hqueued
  refine h.of_only (poweredOn_only n s) (poweredOn_contracts hst h.contracts) (fun i hi => ?_) ?_ fun m => ?_
  · rw [poweredOn_entry, (energizedEntry_same n _).2.2.1] at hi
    exact .inl hi
  · rw [Covered, (poweredOn_heldTotal n s).1, (poweredOn_heldTotal n s).2, (poweredOn_only n s).capacity]
    exact h.covered
  · by_cases hm : m = n
    · refine ⟨fun _ => (poweredOn_only n s).supply.trans hop, fun hsus => ?_⟩
      rw [poweredOn_slotRec, if_pos hm] at hsus
      cases hsus
    · exact (h.supplied m).of_rec (poweredOn_only n s).supply (.inl (by rw [poweredOn_slotRec, if_neg hm]))

/-- The turn-on is remembered for the spacing of the next (R152). -/
theorem lastOn_settles (s : State) : Settles s { s with lastOn := some (ticks s) } where
  undisturbed := ⟨rfl, rfl, rfl, rfl, rfl, rfl, rfl, rfl, rfl, rfl, rfl, rfl, rfl, rfl, rfl, rfl, fun _ => id⟩
  lists := id
  supply _ := id
  sound h :=
    { contracts := h.contracts.of_same rfl rfl rfl rfl rfl rfl rfl rfl
      config := h.config
      supply := h.supply
      capacity := h.capacity
      covered := h.covered
      supplied := fun n => ⟨(h.supplied n).powered, (h.supplied n).suspended⟩
      clocks := ⟨h.clocks.qual, h.clocks.hold, h.clocks.stall, fun t ht => by
        obtain rfl := Option.some.inj ht
        simp only [ticks]
        omega⟩
      ports := h.ports }
  flag _ := id

theorem turnOnSlot_settles {n : Slot} {s : State} (hqueued : n ∈ s.inrush) (hop : s.supply = .operating) :
    Settles s (turnOnSlot n s) := by
  have hkeeps : Keeps s (poweredOn n s) :=
    ⟨.of_only (poweredOn_only n s), poweredOn_lists, fun _ => .of_only (poweredOn_only n s), poweredOn_sound hqueued hop⟩
  have hnow : ticks (poweredOn n s) = ticks s := by rw [ticks, ticks, (poweredOn_only n s).now]
  rw [turnOnSlot_energize]
  have hlast := lastOn_settles (poweredOn n s)
  rw [hnow] at hlast
  exact (hkeeps.quiet (poweredOn_only n s).deficit (poweredOn_only n s).capacity
    fun _ => (poweredOn_heldTotal n s).1).trans hlast

theorem turnOn_settles {s t : State} (h : exec .turnOn s = .next t) : Settles s t := by
  by_cases hdue : turnOnDue s = true
  case neg =>
    obtain rfl := Host.Outcome.next.inj ((exec_turnOn_notDue hdue).symm.trans h)
    exact .refl s
  obtain ⟨-, hop, hqueue, -⟩ := (turnOnDue_iff s).mp hdue
  obtain ⟨n, rest, hq⟩ := List.exists_cons_of_ne_nil hqueue
  obtain rfl := Host.Outcome.next.inj ((exec_turnOn_due hq hdue).symm.trans h)
  exact turnOnSlot_settles (by rw [hq]; exact .head _) hop

end Sys2Proof.Machine
end

section
/-! PROOFS. What every step keeps, continued: the expiries of an entry's timers (R40, R71, R77, R92 to R94, R112). -/

namespace Sys2Proof.Machine

/-! ## Transitions that end in a rebalance -/

/-- An entry is RETIRED, and what it held is spent (R40, R77, R93). -/
theorem retireWith_settles {c : Option Cause} {i : Idx} {s : State} (hs : isStanding (s.entry i).state = true)
    (hc : EntryOk (s.entry i) → c.isSome = true) : Settles s (judgeDeficit (rebalance (retireWith c i s))) :=
  (retireWith_decides hs hc).keeps.rebalanced

/-- H is what it was where the entry that changes holds what it held. -/
theorem heldTotal_of_update {s t : State} {i : Idx} {e : Entry} (h : ∀ j, t.entry j = if j = i then e else s.entry j)
    (he : e.held = (s.entry i).held) : heldTotal t = heldTotal s := by
  have hheld := heldTotal_change (s := s) (t := t) i fun j hj => by rw [h j, if_neg hj]
  rw [h i, if_pos rfl] at hheld
  omega

/-- A live entry enters REVOKING and goes on holding its level (R74). -/
theorem revokeEntry_settles {c : Cause} {i : Idx} {s : State} (hs : isLive (s.entry i).state = true) :
    Settles s (revokeEntry c i s) :=
  (revokeEntry_decides hs).keeps.quiet rfl rfl fun _ => heldTotal_of_update (fun j => revokeEntry_entry c i j s) rfl

/-! ## Graces and windows -/

theorem offerWindowExpiry_settles (i : Idx) {s t : State} (h : exec (.offerWindowExpiry i) s = .next t) : Settles s t := by
  obtain rfl := Host.Outcome.next.inj h
  refine .ite (fun hdue => ?_) fun _ => .refl s
  obtain ⟨hst, -⟩ := (deadlineDue_iff ..).mp hdue
  exact retireWith_settles (by rw [hst]; rfl) fun _ => rfl

theorem reduceGraceExpiry_settles (i : Idx) {s t : State} (h : exec (.reduceGraceExpiry i) s = .next t) : Settles s t := by
  obtain rfl := Host.Outcome.next.inj h
  exact .ite (fun _ => cutSlot_settles _ s) fun _ => .refl s

theorem revokeGraceExpiry_settles (i : Idx) {s t : State} (h : exec (.revokeGraceExpiry i) s = .next t) : Settles s t := by
  obtain rfl := Host.Outcome.next.inj h
  refine .ite (fun hdue => .ite (fun _ => cutSlot_settles _ s) fun _ => ?_) fun _ => .refl s
  obtain ⟨hst, -⟩ := (deadlineDue_iff ..).mp hdue
  refine retireWith_settles (by rw [hst]; rfl) fun hok => ?_
  obtain ⟨-, -, -, -, -, -, -, -, hcause, -⟩ := hok
  exact hcause.mpr (.inl hst)

theorem deliveryLimitExpiry_settles (i : Idx) {s t : State} (h : exec (.deliveryLimitExpiry i) s = .next t) :
    Settles s t := by
  obtain rfl := Host.Outcome.next.inj h
  exact .ite (fun _ => ((freeEntry_decides i s).keeps.trans (.raise ..)).rebalanced) fun _ => .refl s

/-! ## Leases (R91 to R94) -/

theorem isLive_of_countsLease {st : EntryState} (h : countsLease st = true) (hne : st ≠ .enabling) : isLive st = true := by
  revert h hne
  cases st <;> simp [countsLease, isLive]

theorem leaseDue_counts {s : State} {i : Idx} (h : leaseDue s i = true) : countsLease (s.entry i).state = true := by
  simp only [leaseDue, Bool.and_eq_true] at h
  exact h.1.1

theorem leaseExpiry_settles (i : Idx) {s t : State} (h : exec (.leaseExpiry i) s = .next t) : Settles s t := by
  by_cases hdue : leaseDue s i = true
  case neg =>
    obtain rfl := Host.Outcome.next.inj ((exec_leaseExpiry_notDue hdue).symm.trans h)
    exact .refl s
  obtain rfl := Host.Outcome.next.inj ((exec_leaseExpiry_due hdue).symm.trans h)
  exact .ite (fun hst => retireWith_settles (by rw [hst]; rfl) fun _ => rfl)
    fun hst => revokeEntry_settles (isLive_of_countsLease (leaseDue_counts hdue) hst)

theorem EntryOk.warned {e : Entry} (h : EntryOk e) {p : LeasePeriod} (hp : e.period = some p) (q : LeasePeriod) :
    EntryOk { e with period := some q } := by
  obtain ⟨hfree, hlevels, hadm, hidle, hactive, hreduced, hreducing, htarget, hcause, hdeadline, hperiod, hlease⟩ := h
  rw [hp] at hperiod
  refine ⟨fun hst => ?_, hlevels, hadm, hidle, hactive, hreduced, hreducing, htarget, hcause, hdeadline, hperiod, hlease⟩
  have hnone := congrArg Entry.period (hfree hst)
  rw [hp] at hnone
  cases hnone

/-- A period that has been warned of has one instant less to come. -/
theorem EntryAhead.warned {s : State} {e : Entry} (h : EntryAhead s e) {p : LeasePeriod} (hp : e.period = some p) :
    EntryAhead s { e with period := some { p with warned := true } } := by
  refine ⟨h.1, fun q hq => ?_⟩
  obtain rfl := Option.some.inj hq
  exact ⟨(h.2 p hp).1, fun hw => by cases hw⟩

theorem noticeFits_warned {e : Entry} {x : Notice} {q : LeasePeriod} (h : noticeFits e x) :
    noticeFits { e with period := some q } x := by
  cases hk : x.kind <;> simp_all [noticeFits]

theorem markWarned_entry (i : Idx) (p : LeasePeriod) (s : State) (j : Idx) : (markWarned i p s).entry j =
    if j = i then { s.entry i with period := some { p with warned := true } } else s.entry j := entry_setEntry s i j _

theorem markWarned_only (i : Idx) (p : LeasePeriod) (s : State) : ContractsOnly s (markWarned i p s) := setEntry_only ..

theorem markWarned_settles {i : Idx} {p : LeasePeriod} {s : State} (hp : (s.entry i).period = some p)
    (hcounts : countsLease (s.entry i).state = true) : Settles s (markWarned i p s) := by
  have hentry := fun j => markWarned_entry i p s j
  refine (Decides.of_sameKind (markWarned_only i p s) hentry rfl rfl rfl rfl (.refl _) rfl rfl rfl (fun h => h.warned hp _)
    (fun h => h.warned hp) (fun hn => ?_) fun _ => .of_update rfl hentry le_rfl).keeps.quiet rfl rfl
    fun _ => heldTotal_of_update hentry rfl
  refine hn.of_update hentry le_rfl (fun n r hr => hn.reply_lt hr) (fun n => .refl _) (fun n x hx _ => hx)
    (fun n x _ _ hof => ?_) fun hst => ?_
  · obtain ⟨hslot, hgen, htag, hfits⟩ := hof
    exact ⟨hslot, hgen, htag, noticeFits_warned hfits⟩
  · have hst : (s.entry i).state = .retired := hst
    rw [hst] at hcounts
    cases hcounts

theorem leaseWarned_settles {i : Idx} {p : LeasePeriod} {s : State} (hp : (s.entry i).period = some p)
    (hcounts : countsLease (s.entry i).state = true) : Settles s (queueNotice .leaseWarn i 0 (markWarned i p s)) := by
  have hentry (j : Idx) : (queueNotice .leaseWarn i 0 (markWarned i p s)).entry j =
      if j = i then { s.entry i with period := some { p with warned := true } } else s.entry j := markWarned_entry i p s j
  have hsame : (markWarned i p s).entry i = { s.entry i with period := some { p with warned := true } } :=
    (markWarned_entry i p s i).trans (if_pos rfl)
  refine (Decides.of_sameKind ((markWarned_only i p s).trans (queueNotice_only ..)) hentry rfl rfl rfl rfl (.refl _) rfl rfl
    rfl (fun h => h.warned hp _) (fun h => h.warned hp) (fun hn => ?_) fun _ => .of_update rfl hentry le_rfl).keeps.quiet
    rfl rfl fun _ => heldTotal_of_update hentry rfl
  refine hn.of_tells hentry ⟨rfl, rfl, rfl⟩
    (queueNotice_tells rfl rfl (by rw [hsame]) (by rw [hsame]) (by rw [hsame])) rfl (fun x hk hl => ?_) fun hst => ?_
  · simp [noticeFits, hk, hl, hcounts]
  · have hst : (s.entry i).state = .retired := hst
    rw [hst] at hcounts
    cases hcounts

theorem warningPoint_settles (i : Idx) {s t : State} (h : exec (.warningPoint i) s = .next t) : Settles s t := by
  by_cases hdue : warningDue s i = true
  case neg =>
    obtain rfl := Host.Outcome.next.inj ((exec_warningPoint_notDue hdue).symm.trans h)
    exact .refl s
  have hcounts : countsLease (s.entry i).state = true := (Bool.and_eq_true_iff.mp hdue).1
  cases hp : (s.entry i).period with
  | none => simp [warningDue, hp] at hdue
  | some p =>
    obtain rfl := Host.Outcome.next.inj ((exec_warningPoint_due hp hdue).symm.trans h)
    exact .ite (fun _ => markWarned_settles hp hcounts) fun _ => leaseWarned_settles hp hcounts

end Sys2Proof.Machine
end

section
/-! PROOFS. What every step keeps, continued: the rail sample, the qualification of a band and the hold limit (chapter 8). -/

namespace Sys2Proof.Machine

/-! ## The pieces of a change of supply -/

theorem SupplyOk.of_decisions {s t : State} (h : DecisionsOnly s t) (hs : SupplyOk s) : SupplyOk t := by
  simp only [SupplyOk, h.supply, h.qualified, h.holdTimer, h.candidate, h.qualTimer] at hs ⊢
  exact hs

theorem ClocksOk.of_decisions {s t : State} (h : DecisionsOnly s t) (hs : ClocksOk s) : ClocksOk t := by
  obtain ⟨hqual, hhold, hstall, hlast⟩ := hs
  constructor
  · simpa only [Ahead, h.qualTimer, h.now] using hqual
  · simpa only [Ahead, h.holdTimer, h.now] using hhold
  · simpa only [Ahead, h.stallTimer, h.now] using hstall
  · simpa only [h.lastOn, h.now] using hlast

/-- The supply, the configuration and C change first, to v, and the decisions on contracts and flags follow. -/
theorem Sound.of_decisions {v t : State} (only : DecisionsOnly v t) (contracts : Contracts t) (config : ConfigOk v)
    (supply : SupplyOk v) (capacity : CapacityOk t) (covered : Covered t) (supplied : ∀ n, SlotSupplied t n)
    (clocks : ClocksOk v) (ports : PortsOk v) : Sound t where
  contracts := contracts
  config := config.of_active only.active
  supply := supply.of_decisions only
  capacity := capacity
  covered := covered
  supplied := supplied
  clocks := clocks.of_decisions only
  ports := .of_ports only.bus only.bits only.clock only.stallTimer only.pins only.frame only.straps only.inReset ports

theorem Covered.of_table {s t : State} (h : Covered s) (ht : t.table = s.table) (hc : t.capacity = s.capacity) : Covered t := by
  rw [Covered, heldTotal_of_table ht, pendingTotal_of_table ht, hc]
  exact h

/-! ## Recomputation of C (R49) -/

theorem recompute_decides (c : Nat) {s : State} (hl : ListsOk s) : Decides { s with capacity := c } (recompute c s) := by
  have hl' : ListsOk { s with capacity := c } := hl
  refine Decides.trans (.ite (fun _ => (shedPlan_sheds hl').decides) fun _ => .refl _) (rebalance_decides ?_)
  split
  · exact (shedPlan_sheds hl').decides.lists hl'
  · exact hl'

theorem recompute_covered (c : Nat) {s : State} (he : EntriesOk s) (hl : ListsOk s) : Covered (recompute c s) := by
  have he' : EntriesOk { s with capacity := c } := he
  have hl' : ListsOk { s with capacity := c } := hl
  unfold recompute
  dsimp only
  split
  · have hsheds := (shedPlan_sheds hl').decides
    exact (rebalance_decides (hsheds.lists hl')).covered (hsheds.entries he') (shedPlan_covered he' hl')
  · next hle =>
    refine (rebalance_decides hl').covered he' ?_
    show heldTotal { s with capacity := c } ≤ pendingTotal { s with capacity := c } + c
    omega

/-! ## The rail sample (R131, R132) -/

theorem sample_settles {s : State} (code : BitVec 10) (b : Band) (candidate : Option Band) (timer : Option Nat)
    (hsupply : SupplyOk s → (candidate.isSome = true ↔ timer.isSome = true) ∧ (candidate.isSome = true → candidate ≠ s.qualified))
    (htimer : ClocksOk s → Ahead s timer) :
    Settles s { s with railCode := code, sampled := b, candidate := candidate, qualTimer := timer } := by
  have hkept (h : SupplyOk s) : SupplyOk { s with railCode := code, sampled := b, candidate := candidate, qualTimer := timer } := by
    have hcandidate := hsupply h
    obtain ⟨hun, hop, hhold, -⟩ := h
    exact ⟨hun, hop, hhold, hcandidate⟩
  exact
    { undisturbed := ⟨rfl, rfl, rfl, rfl, rfl, rfl, rfl, rfl, rfl, rfl, rfl, rfl, rfl, rfl, rfl, rfl, fun _ => id⟩
      lists := id
      supply := fun _ => hkept
      sound := fun h =>
        { contracts := h.contracts.of_same rfl rfl rfl rfl rfl rfl rfl rfl
          config := h.config
          supply := hkept h.supply
          capacity := h.capacity
          covered := h.covered
          supplied := fun n => ⟨(h.supplied n).powered, (h.supplied n).suspended⟩
          clocks := ⟨htimer h.clocks, h.clocks.hold, h.clocks.stall, h.clocks.lastOn⟩
          ports := h.ports }
      flag := fun _ => id }

theorem railSample_settles (code : BitVec 10) {s t : State} (h : exec (.railSample code) s = .next t) : Settles s t := by
  obtain rfl := Host.Outcome.next.inj h
  refine .unlessReset fun _ => .ite (fun _ => ?_) fun hne => .ite (fun _ => ?_) fun _ => ?_
  · exact sample_settles code _ none none (fun _ => by simp) fun _ => ahead_none s
  · exact sample_settles code _ s.candidate s.qualTimer (fun h => h.2.2.2) fun h => h.qual
  · refine sample_settles code _ _ _ (fun h => ⟨by simp, fun _ hq => ?_⟩) fun _ => ahead_expiryAfter s _
    refine hne ⟨fun hun => ?_, hq.symm⟩
    have hnone : s.qualified = none := h.1.mp hun
    rw [hnone] at hq
    cases hq

/-! ## A change of supply state (R134, R138 to R140) -/

/-- The state in which the Supply Monitor has settled the qualified band and the candidate. -/
def qualifiedAs (q c : Option Band) (timer : Option Nat) (events : BitVec 10) (s : State) : State :=
  { s with qualified := q, candidate := c, qualTimer := timer, events := events }

/-- Band b is the qualified one, what is left of the candidate agrees with it, and flags are raised only. -/
structure Qualifies (b : Band) (q c : Option Band) (timer : Option Nat) (events : BitVec 10) (s : State) : Prop where
  band : SupplyOk s → q = some b
  candidate : SupplyOk s → (c.isSome = true ↔ timer.isSome = true) ∧ (c.isSome = true → c ≠ q)
  timer : ClocksOk s → Ahead s timer
  flags : ∀ k : Nat, s.events.getLsbD k = true → events.getLsbD k = true

/-- The supply, its timers and C have changed, and every group of the invariant that does not tie them to the contracts still
holds. -/
structure Resupplied (s v : State) : Prop where
  undisturbed : Undisturbed s v
  lists : ListsOk s → ListsOk v
  contracts : Contracts s → Contracts v
  supply : SupplyOk s → SupplyOk v
  clocks : ClocksOk s → ClocksOk v
  ports : PortsOk s → PortsOk v

/-- After a change of supply come the decisions on contracts and slots that it hands on. -/
theorem Resupplied.keeps {s v t : State} (h : Resupplied s v) (only : ContractsOnly v t) (lists : ListsOk v → ListsOk t)
    (contracts : Sound s → Contracts t) (capacity : Sound s → CapacityOk t) (covered : Sound s → Covered t)
    (supplied : Sound s → ∀ n, SlotSupplied t n) : Keeps s t where
  undisturbed := h.undisturbed.trans (.of_only only)
  lists := lists ∘ h.lists
  supply _ hs := (h.supply hs).of_decisions only.decisions
  sound hs := .of_decisions only.decisions (contracts hs) (hs.config.of_active h.undisturbed.active) (h.supply hs.supply)
    (capacity hs) (covered hs) (supplied hs) (h.clocks hs.clocks) (h.ports hs.ports)

/-- The supply state, the hold timer and C of a change of supply. -/
def suppliedAs (supply : Supply) (hold : Option Nat) (capacity : Nat) (s : State) : State :=
  { s with supply := supply, holdTimer := hold, capacity := capacity }

theorem qualifiedAs_resupplied {b : Band} {q c : Option Band} {timer : Option Nat} {events : BitVec 10} {s : State}
    (h : Qualifies b q c timer events s) {supply : Supply} {hold : Option Nat} (hun : supply ≠ .unqualified)
    (hop : supply = .operating ↔ b ≠ 0) (hhold : SupplyOk s → (hold.isSome = true ↔ supply = .hold))
    (hahead : ClocksOk s → Ahead s hold) (capacity : Nat) :
    Resupplied s (suppliedAs supply hold capacity (qualifiedAs q c timer events s)) where
  undisturbed := ⟨rfl, rfl, rfl, rfl, rfl, rfl, rfl, rfl, rfl, rfl, rfl, rfl, rfl, rfl, rfl, rfl, h.flags⟩
  lists := id
  contracts hs := hs.of_same rfl rfl rfl rfl rfl rfl rfl rfl
  supply hs := by
    have hband := h.band hs
    have hcandidate := h.candidate hs
    subst hband
    exact ⟨iff_of_false hun (by simp [qualifiedAs, suppliedAs]), by simpa [qualifiedAs, suppliedAs] using hop, hhold hs,
      hcandidate⟩
  clocks hs := ⟨h.timer hs, hahead hs, hs.stall, hs.lastOn⟩
  ports hs := hs

/-! ## LOST (R140) -/

/-- No entry is admitted any more, and so nothing is held (R140). -/
theorem heldTotal_of_noneAdmitted {t : State} (he : EntriesOk t) (h : ∀ i : Idx, isAdmitted (t.entry i).state = false) :
    heldTotal t = 0 := by
  rw [heldTotal, List.sum_eq_zero_iff_forall_eq_nat]
  simp only [List.mem_map]
  rintro _ ⟨i, -, rfl⟩
  obtain ⟨-, -, -, hidle, -⟩ := he i
  exact hidle (h i)

theorem needsPower_admitted {st : EntryState} (h : needsPower st = true) : isAdmitted st = true := by
  revert h
  cases st <;> simp [needsPower, isAdmitted]

/-- A slot with no admitted entry is not powered. -/
theorem SlotCore.unpowered_of_noneAdmitted {t : State} {n : Slot} (h : SlotCore t n)
    (hnone : ∀ i : Idx, isAdmitted (t.entry i).state = false) : Unpowered (t.slotRec n).state := by
  have hneed : hasNeed t n = false := Bool.eq_false_iff.mpr fun hneed => by
    obtain ⟨i, -, hi⟩ := (hasNeed_iff ..).mp hneed
    exact Bool.eq_false_iff.mp (hnone i) (needsPower_admitted hi)
  have hst := mt h.need.mpr (by simp [hneed])
  simp only [not_or] at hst
  exact ⟨hst.2.1, hst.1, hst.2.2⟩

theorem Unpowered.supplied {t : State} {n : Slot} (h : Unpowered (t.slotRec n).state) : SlotSupplied t n :=
  ⟨fun hp => (hp.elim h.1 h.2.1).elim, fun hp => (h.2.2 hp).elim⟩

/-- Every admitted entry is RETIRED. -/
def supplyRetired (v : State) : State := retireAll .supply (entriesWhere v fun e => isAdmitted e.state) v

theorem isAdmitted_standing {st : EntryState} (h : isAdmitted st = true) : isStanding st = true := by
  revert h
  cases st <;> simp [isAdmitted, isStanding]

theorem supplyRetired_decides (v : State) : Decides v (supplyRetired v) :=
  retireAll_decides .supply (nodup_entriesWhere ..) fun _ hi => isAdmitted_standing ((mem_entriesWhere ..).mp hi)

theorem supplyRetired_noneAdmitted (v : State) (i : Idx) : isAdmitted ((supplyRetired v).entry i).state = false := by
  rw [supplyRetired, retireAll_entry _ _ (nodup_entriesWhere ..)]
  split
  · rfl
  · next h => simpa [mem_entriesWhere] using h

theorem lost_keeps {s v : State} (h : Resupplied s v) (hsupply : v.supply = .lost) (hcapacity : v.capacity = 0) :
    Keeps s (supplyRetired v) := by
  have hdecides := supplyRetired_decides v
  have hnone := supplyRetired_noneAdmitted v
  have hcontracts (hs : Sound s) := hdecides.contracts (h.contracts hs.contracts)
  have hzero : (supplyRetired v).capacity = 0 := hdecides.only.capacity.trans hcapacity
  refine h.keeps hdecides.only hdecides.lists hcontracts (fun _ => ⟨by omega, fun _ => ⟨hzero, hnone⟩, fun hop => ?_⟩)
    (fun hs => ?_) fun hs n => (((hcontracts hs).slots.slot n).unpowered_of_noneAdmitted hnone).supplied
  · rw [hdecides.only.supply, hsupply] at hop
    cases hop
  · rw [Covered, heldTotal_of_noneAdmitted (hcontracts hs).entries hnone]
    exact Nat.zero_le _

theorem enterLost_settles {q c : Option Band} {timer : Option Nat} {events : BitVec 10} {s : State}
    (h : Qualifies 0 q c timer events s) : Settles s (enterLost (qualifiedAs q c timer events s)) := by
  have hv := qualifiedAs_resupplied h (supply := .lost) (hold := none) (by simp) (by simp) (fun _ => by simp)
    (fun _ => ahead_none s) 0
  exact ((lost_keeps hv rfl rfl).trans (.raise ..)).judged

/-! ## Slots that wait for power (R157, R158) -/

/-- A slot with a need that is QUEUED or SUSPENDED now, over the same entries. -/
theorem SlotCore.of_waiting {s t : State} {n : Slot} (h : SlotCore s n) (hneed : hasNeed s n = true) (htable : t.table = s.table)
    (hst : (t.slotRec n).state = .queued ∨ (t.slotRec n).state = .suspended) (hswitch : (t.slotRec n).switch = false)
    (hkey : (t.slotRec n).key.isSome = true ↔ (t.slotRec n).state = .queued)
    (hinrush : n ∈ t.inrush ↔ (t.slotRec n).state = .queued)
    (htimers : (t.slotRec n).blanking = none ∧ (t.slotRec n).fault = none ∧ (t.slotRec n).stable = none)
    (hsame : (t.slotRec n).seated = (s.slotRec n).seated ∧ (t.slotRec n).cooldown = (s.slotRec n).cooldown
      ∧ (t.slotRec n).trips = (s.slotRec n).trips) : SlotCore t n := by
  obtain ⟨hseated, hcooldown, htrips⟩ := hsame
  obtain ⟨hblanking, hfault, hstable⟩ := htimers
  have hold := h.need.mp hneed
  have hne (st : SlotState) (hst : st ≠ .queued ∧ st ≠ .on ∧ st ≠ .suspended) : (s.slotRec n).state ≠ st := by
    rintro rfl
    exact hold.elim hst.1 fun hold => hold.elim hst.2.1 hst.2.2
  have hnew (st : SlotState) (hst' : st ≠ .queued ∧ st ≠ .suspended) : (t.slotRec n).state ≠ st := by
    rintro rfl
    exact hst.elim hst'.1 hst'.2
  have hin : (t.slotRec n).seated = true := by
    by_contra hseat
    rw [hseated, Bool.not_eq_true] at hseat
    exact (h.unseated hseat).elim (hne _ (by decide)) (hne _ (by decide))
  exact
    { switch := iff_of_false (by simp [hswitch]) (hnew _ (by decide))
      key := hkey
      inrush := hinrush
      need := iff_of_true (by rw [hasNeed_of_table htable, hneed]) (hst.imp_right .inr)
      energized := fun hon => absurd hon (hnew _ (by decide))
      unseated := fun hseat => by rw [hin] at hseat; cases hseat
      empty := fun hempty => absurd hempty (hnew _ (by decide))
      vacant := fun hseat => by rw [hin] at hseat; cases hseat
      cleared := fun hgone => hgone.elim (fun h => absurd h (hnew _ (by decide))) fun h => absurd h (hnew _ (by decide))
      timed := by simp [hblanking, hfault, hstable]
      cooling := iff_of_false (by rw [hcooldown, h.cooling]; exact hne _ (by decide)) (hnew _ (by decide))
      trips := by rw [htrips]; exact h.trips
      tripLimit := fun _ => by rw [htrips]; exact h.tripLimit (hne _ (by decide)) }

/-- A slot whose record stays while the Inrush Queue, in which it has no place, is made anew. -/
theorem SlotCore.of_requeued {s t : State} {n : Slot} (h : SlotCore s n) (hrec : t.slotRec n = s.slotRec n)
    (hold : (s.slotRec n).state ≠ .queued) (hinrush : n ∉ t.inrush) (htable : t.table = s.table) : SlotCore t n :=
  h.of_entries hrec (iff_of_false hinrush (mt h.inrush.mp hold)) (hasNeed_of_table htable n) fun i hi => by
    rw [entry_of_table htable] at hi ⊢
    exact ⟨hi, fun _ => id, id⟩

/-! ## HOLD (R138, R157) -/

theorem suspendedRec_on {r : SlotRec} (h : r.state = .on) : suspendedRec r = { switchedOff r with state := .suspended } := by
  simp [suspendedRec, h]

theorem suspendedRec_queued {r : SlotRec} (h : r.state = .queued) :
    suspendedRec r = { r with state := .suspended, key := none } := by
  simp [suspendedRec, h]

theorem suspendedRec_other {r : SlotRec} (hon : r.state ≠ .on) (hqueued : r.state ≠ .queued) : suspendedRec r = r := by
  unfold suspendedRec
  split
  · exact absurd ‹_› hon
  · exact absurd ‹_› hqueued
  all_goals rfl

theorem SlotCore.untimed {s : State} {n : Slot} (h : SlotCore s n) (hst : (s.slotRec n).state ≠ .on) :
    (s.slotRec n).switch = false ∧ (s.slotRec n).blanking = none ∧ (s.slotRec n).fault = none ∧ (s.slotRec n).stable = none := by
  have htimed := mt h.timed hst
  simp only [not_or, Bool.not_eq_true, Option.isSome_eq_false_iff, Option.isNone_iff_eq_none] at htimed
  exact ⟨Bool.eq_false_iff.mpr (mt h.switch.mp hst), htimed⟩

theorem suspendAll_core {s : State} {n : Slot} (h : SlotCore s n) : SlotCore (suspendAll s) n := by
  have hrec := suspendAll_slotRec s n
  have htable : (suspendAll s).table = s.table := by rw [suspendAll_eq]
  have hinrush : n ∉ (suspendAll s).inrush := by
    rw [suspendAll_eq]
    exact List.not_mem_nil
  by_cases hon : (s.slotRec n).state = .on
  · rw [suspendedRec_on hon] at hrec
    have hkey : (s.slotRec n).key = none := Option.not_isSome_iff_eq_none.mp (mt h.key.mp (by simp [hon]))
    refine h.of_waiting (h.need.mpr (.inr (.inl hon))) htable ?_ ?_ ?_ ?_ ?_ ?_ <;> rw [hrec]
    · exact .inr rfl
    · rfl
    · simp [switchedOff, hkey]
    · exact iff_of_false hinrush (by simp)
    · exact ⟨rfl, rfl, rfl⟩
    · exact ⟨rfl, rfl, rfl⟩
  by_cases hqueued : (s.slotRec n).state = .queued
  · rw [suspendedRec_queued hqueued] at hrec
    obtain ⟨hswitch, htimers⟩ := h.untimed hon
    refine h.of_waiting (h.need.mpr (.inl hqueued)) htable ?_ ?_ ?_ ?_ ?_ ?_ <;> rw [hrec]
    · exact .inr rfl
    · exact hswitch
    · simp
    · exact iff_of_false hinrush (by simp)
    · exact htimers
    · exact ⟨rfl, rfl, rfl⟩
  · rw [suspendedRec_other hon hqueued] at hrec
    exact h.of_requeued hrec hqueued hinrush htable

theorem suspendedRec_ahead {s : State} {r : SlotRec} (h : RecAhead s r) : RecAhead s (suspendedRec r) := by
  unfold suspendedRec
  split
  · exact ⟨h.1, ahead_none s, ahead_none s, ahead_none s, h.2.2.2.2⟩
  all_goals exact h

theorem suspendedRec_state (r : SlotRec) : (suspendedRec r).state ≠ .on ∧ (suspendedRec r).state ≠ .queued := by
  unfold suspendedRec
  split <;> simp_all

theorem suspendAll_slots {s : State} (h : SlotsCore s) : SlotsCore (suspendAll s) := by
  refine ⟨fun n => suspendAll_core (h.slot n), ?_, ?_⟩ <;> rw [suspendAll_eq]
  · exact List.nodup_nil
  · exact List.Pairwise.nil

/-- The slots' records and the Inrush Queue alone have changed. -/
structure SlotsOnly (s t : State) : Prop where
  only : ContractsOnly s t
  table : t.table = s.table
  waitQueue : t.waitQueue = s.waitQueue
  admission : t.admission = s.admission
  outboxes : t.outboxes = s.outboxes
  nextItem : t.nextItem = s.nextItem

theorem SlotsOnly.lists {s t : State} (h : SlotsOnly s t) (hs : ListsOk s) : ListsOk t :=
  hs.of_kinds h.waitQueue h.admission fun i => by rw [entry_of_table h.table]; exact ⟨Iff.rfl, rfl, rfl⟩

theorem SlotsOnly.contracts {s t : State} (h : SlotsOnly s t) (hs : Contracts s) (slots : SlotsCore t) (ahead : SlotsAhead t) :
    Contracts t where
  entries i := by rw [entry_of_table h.table]; exact hs.entries i
  ahead i := by rw [entry_of_table h.table]; exact (hs.ahead i).of_now h.only.now
  lists := h.lists hs.lists
  limits := hs.limits.of_entries fun i hi => by rw [entry_of_table h.table] at hi ⊢; exact ⟨hi, rfl, rfl⟩
  notices := hs.notices.of_same h.table h.outboxes h.nextItem
  slots := slots
  slotsAhead := ahead

theorem suspendAll_slotsOnly (s : State) : SlotsOnly s (suspendAll s) := by
  refine ⟨suspendAll_only s, ?_, ?_, ?_, ?_, ?_⟩ <;> rw [suspendAll_eq]

theorem suspendAll_contracts {s : State} (h : Contracts s) : Contracts (suspendAll s) :=
  (suspendAll_slotsOnly s).contracts h (suspendAll_slots h.slots) fun n => by
    rw [suspendAll_slotRec]
    exact (suspendedRec_ahead (h.slotsAhead n)).of_now (suspendAll_only s).now

theorem hold_keeps {s v : State} (h : Resupplied s v) (hsupply : v.supply = .hold) (hcapacity : v.capacity = s.capacity)
    (htable : v.table = s.table) : Keeps s (suspendAll v) := by
  have honly := suspendAll_slotsOnly v
  have hheld : (suspendAll v).supply = .hold := honly.only.supply.trans hsupply
  refine h.keeps honly.only honly.lists (fun hs => suspendAll_contracts (h.contracts hs.contracts)) (fun hs => ?_)
    (fun hs => hs.covered.of_table (honly.table.trans htable) (honly.only.capacity.trans hcapacity))
    fun hs n => ⟨fun hp => ?_, fun _ => hheld⟩
  · refine ⟨?_, fun hst => ?_, fun hst => ?_⟩
    · rw [honly.only.capacity, hcapacity]
      exact hs.capacity.1
    · rw [hheld] at hst
      simp at hst
    · rw [hheld] at hst
      cases hst
  · rw [suspendAll_slotRec] at hp
    obtain ⟨hon, hqueued⟩ := suspendedRec_state (v.slotRec n)
    exact (hp.elim hon hqueued).elim

theorem enterHold_settles {q c : Option Band} {timer : Option Nat} {events : BitVec 10} {s : State}
    (h : Qualifies 0 q c timer events s) : Settles s (enterHold (qualifiedAs q c timer events s)) := by
  have hv := qualifiedAs_resupplied h (supply := .hold) (hold := some (expiryAfter s (duration s .holdlim))) (by simp)
    (by simp) (fun _ => by simp) (fun _ => ahead_expiryAfter s _) s.capacity
  have hkeeps := hold_keeps hv rfl rfl rfl
  show Settles s (raise .supplyChange (suspendAll
    (suppliedAs .hold (some (expiryAfter s (duration s .holdlim))) s.capacity (qualifiedAs q c timer events s))))
  have honly := suspendAll_slotsOnly
    (suppliedAs .hold (some (expiryAfter s (duration s .holdlim))) s.capacity (qualifiedAs q c timer events s))
  exact (hkeeps.quiet honly.only.deficit honly.only.capacity fun _ => heldTotal_of_table honly.table).trans (.raise ..)

/-! ## OPERATING (R137, R139, R158) -/

theorem restartedRec_suspended {s : State} {n : Slot} {r : SlotRec} (h : r.state = .suspended) (hneed : hasNeed s n = true) :
    restartedRec s n r = { r with state := .queued, key := some (needClass s n) } := by
  simp [restartedRec, h, hneed]

theorem restartedRec_other {s : State} {n : Slot} {r : SlotRec} (h : r.state ≠ .suspended) : restartedRec s n r = r := by
  unfold restartedRec
  split
  · contradiction
  all_goals rfl

theorem restartAll_inrush (s : State) : (restartAll s).inrush = restartOrder s := by rw [restartAll_eq]

theorem restartAll_core {s : State} {n : Slot} (h : SlotCore s n) (hqueued : (s.slotRec n).state ≠ .queued) :
    SlotCore (restartAll s) n := by
  have hrec := restartAll_slotRec s n
  have htable : (restartAll s).table = s.table := by rw [restartAll_eq]
  have hinrush : n ∈ (restartAll s).inrush ↔ (s.slotRec n).state = .suspended ∧ hasNeed s n = true := by
    rw [restartAll_inrush, mem_restartOrder]
  by_cases hst : (s.slotRec n).state = .suspended
  · have hneed := h.need.mpr (.inr (.inr hst))
    rw [restartedRec_suspended hst hneed] at hrec
    obtain ⟨hswitch, htimers⟩ := h.untimed (by simp [hst])
    refine h.of_waiting hneed htable ?_ ?_ ?_ ?_ ?_ ?_ <;> rw [hrec]
    · exact .inl rfl
    · exact hswitch
    · simp
    · exact iff_of_true (hinrush.mpr ⟨hst, hneed⟩) rfl
    · exact htimers
    · exact ⟨rfl, rfl, rfl⟩
  · rw [restartedRec_other hst] at hrec
    exact h.of_requeued hrec hqueued (fun hm => hst (hinrush.mp hm).1) htable

theorem restartedRec_ahead {s t : State} {n : Slot} {r : SlotRec} (h : RecAhead s r) : RecAhead s (restartedRec t n r) := by
  unfold restartedRec
  split
  · split <;> exact h
  all_goals exact h

theorem restartAll_slots {s : State} (h : SlotsCore s) (hqueued : ∀ n, (s.slotRec n).state ≠ .queued) :
    SlotsCore (restartAll s) := by
  have horder := pairwise_restartOrder s
  have hkey {n : Slot} (hn : n ∈ restartOrder s) : ((restartAll s).slotRec n).key.getD 0 = needClass s n := by
    obtain ⟨hst, hneed⟩ := (mem_restartOrder s n).mp hn
    rw [restartAll_slotRec, restartedRec_suspended hst hneed]
    rfl
  refine ⟨fun n => restartAll_core (h.slot n) (hqueued n), ?_, ?_⟩ <;> rw [restartAll_inrush]
  · exact horder.imp fun {a b} hab heq => by
      rcases hab with hlt | ⟨-, hlt⟩ <;> subst heq <;> exact lt_irrefl _ hlt
  · refine horder.imp_of_mem fun {a b} ha hb hab => ?_
    rw [hkey ha, hkey hb]
    rcases hab with hlt | ⟨heq, -⟩
    · exact hlt.le
    · exact heq.le

theorem restartAll_slotsOnly (s : State) : SlotsOnly s (restartAll s) := by
  refine ⟨restartAll_only s, ?_, ?_, ?_, ?_, ?_⟩ <;> rw [restartAll_eq]

theorem restartAll_contracts {s : State} (h : Contracts s) (hqueued : ∀ n, (s.slotRec n).state ≠ .queued) :
    Contracts (restartAll s) :=
  (restartAll_slotsOnly s).contracts h (restartAll_slots h.slots hqueued) fun n => by
    rw [restartAll_slotRec]
    exact (restartedRec_ahead (h.slotsAhead n)).of_now (restartAll_only s).now

theorem operatingCapacity_le {s : State} (h : ConfigOk s) (b : Band) : operatingCapacity s b ≤ 4095 :=
  (Nat.min_le_right ..).trans (h.1 .ceiling (mem_allItems _)).2

/-- C of an OPERATING state that has been recomputed for its band (R47). -/
theorem capacityOk_operating {t : State} {b : Band} (hc : ConfigOk t) (hop : t.supply = .operating) (hq : t.qualified = some b)
    (hcap : t.capacity = operatingCapacity t b) : CapacityOk t := by
  refine ⟨hcap ▸ operatingCapacity_le hc b, fun hst => ?_, fun _ => ?_⟩
  · rw [hop] at hst
    simp at hst
  · rw [hcap, hq]
    rfl

/-- A slot is left IDLE or as it was by the decisions that follow a change of C. -/
theorem recompute_state (c : Nat) {s : State} (hl : ListsOk s) {n : Slot} {st : SlotState} (hst : st ≠ .idle)
    (h : ((recompute c s).slotRec n).state = st) : (s.slotRec n).state = st := by
  rcases (recompute_decides c hl).recs n with hrec | hrec <;> rw [hrec] at h
  · exact h
  · exact absurd h.symm hst

section
variable {s u : State} {c : Nat} {b : Band}

/-- In OPERATING a new C, of the band qualified, is followed by the decisions of R49. -/
theorem recompute_capacity (h : Resupplied s { u with capacity := c }) (hop : u.supply = .operating)
    (hq : SupplyOk s → u.qualified = some b) (hcap : c = operatingCapacity s b) (hs : Sound s) :
    CapacityOk (recompute c u) := by
  have honly := recompute_only c u
  have hactive : (recompute c u).active = s.active := honly.active.trans h.undisturbed.active
  refine capacityOk_operating (hs.config.of_active hactive) (honly.supply.trans hop) (honly.qualified.trans (hq hs.supply)) ?_
  rw [operatingCapacity_of_active hactive, ← hcap]
  exact honly.capacity

theorem recompute_keeps (h : Resupplied s { u with capacity := c }) (hop : u.supply = .operating)
    (hq : SupplyOk s → u.qualified = some b) (hcap : c = operatingCapacity s b) (hslots : u.slots = s.slots)
    (hon : s.supply = .operating) : Keeps s (recompute c u) := by
  have hdecides (hl : ListsOk s) := recompute_decides (s := u) c (h.lists hl)
  refine h.keeps (recompute_only c u) (fun hl => (recompute_decides (s := u) c hl).lists hl)
    (fun hs => (hdecides hs.contracts.lists).contracts (h.contracts hs.contracts)) (recompute_capacity h hop hq hcap)
    (fun hs => recompute_covered c (h.contracts hs.contracts).entries (h.lists hs.contracts.lists)) fun hs n => ?_
  have hrec := (hdecides hs.contracts.lists).recs n
  have hsame : State.slotRec { u with capacity := c } n = s.slotRec n := slotRec_of_slots hslots n
  rw [hsame] at hrec
  exact (hs.supplied n).of_rec ((recompute_only c u).supply.trans (hop.trans hon.symm)) hrec

theorem restart_keeps (h : Resupplied s { u with capacity := c }) (hop : u.supply = .operating)
    (hq : SupplyOk s → u.qualified = some b) (hcap : c = operatingCapacity s b) (hslots : u.slots = s.slots)
    (hoff : s.supply ≠ .operating) : Keeps s (restartAll (recompute c u)) := by
  have hdecides (hl : ListsOk s) := recompute_decides (s := u) c (h.lists hl)
  have hrestart := restartAll_slotsOnly (recompute c u)
  have hcontracts (hs : Sound s) := (hdecides hs.contracts.lists).contracts (h.contracts hs.contracts)
  have hqueued (hs : Sound s) (n : Slot) : ((recompute c u).slotRec n).state ≠ .queued := fun hst => by
    have hold := recompute_state (s := u) c (h.lists hs.contracts.lists) (by simp) hst
    rw [slotRec_of_slots hslots] at hold
    exact hoff ((hs.supplied n).powered (.inr hold))
  refine h.keeps ((recompute_only c u).trans hrestart.only)
    (fun hl => hrestart.lists ((recompute_decides (s := u) c hl).lists hl))
    (fun hs => restartAll_contracts (hcontracts hs) (hqueued hs)) (fun hs => ?_)
    (fun hs => (recompute_covered c (h.contracts hs.contracts).entries (h.lists hs.contracts.lists)).of_table hrestart.table
      hrestart.only.capacity) fun hs n => ⟨fun _ => ?_, fun hst => ?_⟩
  · refine (recompute_capacity h hop hq hcap hs).of_only hrestart.only fun i hi => ?_
    rw [entry_of_table hrestart.table] at hi
    exact .inl hi
  · exact hrestart.only.supply.trans ((recompute_only c u).supply.trans hop)
  · rw [restartAll_slotRec] at hst
    by_cases hold : ((recompute c u).slotRec n).state = .suspended
    · rw [restartedRec_suspended hold (((hcontracts hs).slots.slot n).need.mpr (.inr (.inr hold)))] at hst
      cases hst
    · rw [restartedRec_other hold] at hst
      exact absurd hst hold

end

theorem enterOperating_settles {b : Band} {q c : Option Band} {timer : Option Nat} {events : BitVec 10} {s : State}
    (hb : b ≠ 0) (h : Qualifies b q c timer events s) (hoff : s.supply ≠ .operating) :
    Settles s (enterOperating b (qualifiedAs q c timer events s)) := by
  have hv := qualifiedAs_resupplied h (supply := .operating) (hold := none) (by simp) (by simpa using hb) (fun _ => by simp)
    (fun _ => ahead_none s) (operatingCapacity s b)
  have hkeeps := restart_keeps (u := suppliedAs .operating none s.capacity (qualifiedAs q c timer events s)) hv rfl
    h.band rfl rfl hoff
  exact (hkeeps.trans (.raise .supplyChange _)).judged

/-- A new band in OPERATING (R134, R137). -/
theorem requalified_settles {b : Band} {q c : Option Band} {timer : Option Nat} {events : BitVec 10} {s : State}
    (hb : b ≠ 0) (h : Qualifies b q c timer events s) (hop : s.supply = .operating) :
    Settles s (judgeDeficit (recompute (operatingCapacity s b) (qualifiedAs q c timer events s))) := by
  have hv := qualifiedAs_resupplied h (supply := s.supply) (hold := s.holdTimer) (by simp [hop]) (by simpa [hop] using hb)
    (fun hs => hs.2.2.1) (fun hs => hs.hold) (operatingCapacity s b)
  exact (recompute_keeps (u := qualifiedAs q c timer events s) hv hop h.band rfl rfl hop).judged

/-! ## The two events (R133, R135) -/

/-- In HOLD and LOST band 0 is the qualified one (R134, R138). -/
theorem SupplyOk.band_zero {s : State} (h : SupplyOk s) (hs : s.supply = .hold ∨ s.supply = .lost) : s.qualified = some 0 := by
  obtain ⟨hun, hop, -⟩ := h
  have hband : s.qualified ≠ none := fun hnone => by
    have := hun.mpr hnone
    rcases hs with hs | hs <;> rw [hs] at this <;> cases this
  by_contra hzero
  have := hop.mpr ⟨Option.isSome_iff_ne_none.mpr hband, hzero⟩
  rcases hs with hs | hs <;> rw [hs] at this <;> cases this

/-- Band 0 is no candidate in HOLD and LOST, so this cannot qualify (R134). -/
theorem bandZeroAgain_settles {s : State} {q c : Option Band} {timer : Option Nat} {events : BitVec 10}
    (h : Qualifies 0 q c timer events s) (hcandidate : s.candidate = some 0) (hs : s.supply = .hold ∨ s.supply = .lost) :
    Settles s (qualifiedAs q c timer events s) := by
  have hnever (hok : SupplyOk s) : False := by
    have hne := hok.2.2.2.2 (by simp [hcandidate])
    exact hne (hcandidate.trans (hok.band_zero hs).symm)
  exact
    { undisturbed := ⟨rfl, rfl, rfl, rfl, rfl, rfl, rfl, rfl, rfl, rfl, rfl, rfl, rfl, rfl, rfl, rfl, h.flags⟩
      lists := id
      supply := fun _ hok => (hnever hok).elim
      sound := fun hs => (hnever hs.supply).elim
      flag := fun _ => id }

theorem bandQualified_settles {b : Band} {q c : Option Band} {timer : Option Nat} {events : BitVec 10} {s : State}
    (h : Qualifies b q c timer events s) (hcandidate : s.candidate = some b) :
    Settles s (bandQualified b (qualifiedAs q c timer events s)) := by
  have hsame : (qualifiedAs q c timer events s).supply = s.supply := rfl
  cases hs : s.supply <;> simp only [bandQualified, hsame, hs] <;> split
  case unqualified.isTrue hb => subst hb; exact enterLost_settles h
  case unqualified.isFalse hb => exact enterOperating_settles hb h (by simp [hs])
  case operating.isTrue hb => subst hb; exact enterHold_settles h
  case operating.isFalse hb => exact requalified_settles hb h hs
  case hold.isTrue hb => subst hb; exact bandZeroAgain_settles h hcandidate (.inl hs)
  case hold.isFalse hb => exact enterOperating_settles hb h (by simp [hs])
  case lost.isTrue hb => subst hb; exact bandZeroAgain_settles h hcandidate (.inr hs)
  case lost.isFalse hb => exact enterOperating_settles hb h (by simp [hs])

theorem qualificationTimerExpiry_settles {s t : State} (h : exec .qualificationTimerExpiry s = .next t) : Settles s t := by
  change execQualificationTimerExpiry s = .next t at h
  unfold execQualificationTimerExpiry at h
  cases hc : s.candidate with
  | none =>
    rw [hc] at h
    obtain rfl := Host.Outcome.next.inj h
    exact .refl s
  | some b =>
    rw [hc] at h
    obtain rfl := Host.Outcome.next.inj h
    refine .ite (fun _ => ?_) fun _ => .refl s
    exact bandQualified_settles (q := some b) (c := none) (timer := none) (events := (raise .bandChange s).events)
      ⟨fun _ => rfl, fun _ => by simp, fun _ => ahead_none s, raise_keeps_flags .bandChange s⟩ hc

theorem holdTimerExpiry_settles {s t : State} (h : exec .holdTimerExpiry s = .next t) : Settles s t := by
  obtain rfl := Host.Outcome.next.inj h
  refine .ite (fun hdue => ?_) fun _ => .refl s
  have hhold : s.supply = .hold := by simpa using (Bool.and_eq_true_iff.mp hdue).1
  exact enterLost_settles (q := s.qualified) (c := s.candidate) (timer := s.qualTimer) (events := s.events)
    ⟨fun hs => hs.band_zero (.inl hhold), fun hs => hs.2.2.2, fun hs => hs.qual, fun _ => id⟩

end Sys2Proof.Machine
end

section
/-! PROOFS. What every step keeps, continued: the host's commands and writes (chapter 10). -/

namespace Sys2Proof.Machine

/-! ## What a write of the host leaves -/

/-- A command or a write of the host: the time, the queues and the pins stay, and each group of the invariant holds after it as
before. -/
structure Written (s t : State) : Prop where
  pending : t.pending = s.pending
  now : t.now = s.now
  ties : t.ties = s.ties
  pins : t.pins = s.pins
  wires : t.wires = s.wires
  inReset : t.inReset = s.inReset
  straps : t.straps = s.straps
  lists : ListsOk s → ListsOk t
  monitored : ConfigOk s → SupplyOk s → ConfigOk t ∧ SupplyOk t
  sound : Sound s → Sound t
  flag : Sound s → FlagOk s → FlagOk t

theorem Settles.written {s t : State} (h : Settles s t) : Written s t where
  pending := h.undisturbed.pending
  now := h.undisturbed.now
  ties := h.undisturbed.ties
  pins := h.undisturbed.pins
  wires := h.undisturbed.wires
  inReset := h.undisturbed.inReset
  straps := h.undisturbed.straps
  lists := h.lists
  monitored hc hs := ⟨hc.of_active h.undisturbed.active, h.supply hc hs⟩
  sound := h.sound
  flag := h.flag

theorem Written.refl (s : State) : Written s s := (Settles.refl s).written

theorem Written.trans {s t u : State} (h : Written s t) (k : Written t u) : Written s u where
  pending := k.pending.trans h.pending
  now := k.now.trans h.now
  ties := k.ties.trans h.ties
  pins := k.pins.trans h.pins
  wires := k.wires.trans h.wires
  inReset := k.inReset.trans h.inReset
  straps := k.straps.trans h.straps
  lists := k.lists ∘ h.lists
  monitored hc hs := k.monitored (h.monitored hc hs).1 (h.monitored hc hs).2
  sound := k.sound ∘ h.sound
  flag hs hf := k.flag (h.sound hs) (h.flag hs hf)

/-- The registers of the host alone have changed. -/
theorem registers_written (events evmask : BitVec 10) (cmd : BitVec 8) (arg0 arg1 result : Word) (snap : Vector Word 8)
    (staged : Vector Word 21) (s : State) : Written s { s with events, evmask, cmd, arg0, arg1, result, snap, staged } :=
  ⟨rfl, rfl, rfl, rfl, rfl, rfl, rfl, id, fun hc hs => ⟨hc, hs⟩, fun h => h.of_flags .., fun _ => id⟩

/-- A command whose act is an event of the part, and which then leaves its code in CMD and its answer in RESULT (R169). -/
structure Answers (s t : State) : Prop where
  act : ∃ u, Settles s u ∧ ∃ code result, t = { u with cmd := code, result := result }

theorem Answers.of_complete {s u : State} (h : Settles s u) (code : Byte) (r : Result) (v : Nat) :
    Answers s (complete code r v u) := ⟨u, h, code, _, rfl⟩

theorem Answers.written {s t : State} (h : Answers s t) : Written s t := by
  obtain ⟨u, hu, code, result, rfl⟩ := h.act
  exact hu.written.trans (registers_written ..)

/-! ## The commands (R160, R161, R169 to R173) -/

theorem onSlot_answers {act : Slot → State → State} (h : ∀ n s, Settles s (act n s)) (code : Byte) (s : State) :
    Answers s (onSlot code act s) := by
  unfold onSlot
  split
  · exact .of_complete (.refl s) ..
  · exact .of_complete (h _ s) ..

theorem hostFind_answers (s : State) : Answers s (hostFind s) := by
  unfold hostFind
  split
  · split <;> exact .of_complete (.refl s) ..
  all_goals exact .of_complete (.refl s) ..

theorem EntryOk.hostCause {e : Entry} (h : EntryOk e) (hs : e.state = .revoking) : EntryOk { e with cause := some .host } := by
  obtain ⟨-, hlevels, hadm, hidle, hactive, hreduced, hreducing, htarget, hcause, hdeadline, hperiod, hlease⟩ := h
  exact ⟨fun hfree => absurd (hs.symm.trans hfree) (by decide), hlevels, hadm, hidle, hactive, hreduced, hreducing, htarget,
    iff_of_true rfl (.inl hs), hdeadline, hperiod, hlease⟩

theorem hostCause_settles {i : Idx} {s : State} (hs : (s.entry i).state = .revoking) :
    Settles s (s.setEntry i { s.entry i with cause := some .host }) := by
  have hentry (j : Idx) := entry_setEntry s i j { s.entry i with cause := some .host }
  refine (Decides.of_sameKind (setEntry_only ..) hentry rfl rfl rfl rfl (.refl _) rfl rfl rfl (fun h => h.hostCause hs)
    (fun h => h) (fun hn => ?_) fun _ => .of_update rfl hentry le_rfl).keeps.quiet rfl rfl
    fun _ => heldTotal_of_update hentry rfl
  refine hn.of_update hentry le_rfl (fun n r hr => hn.reply_lt hr) (fun n => .refl _) (fun n x hx _ => hx)
    (fun n x _ _ hof => hof) fun hst => ?_
  have hst : (s.entry i).state = .retired := hst
  rw [hs] at hst
  cases hst

/-- A RETIRED entry holds nothing, so that its freeing changes neither H nor the deficit. -/
theorem freeRetired_settles {i : Idx} {s : State} (hs : (s.entry i).state = .retired) : Settles s (freeEntry i s) := by
  refine (freeEntry_decides i s).keeps.quiet (freeEntry_only i s).deficit (freeEntry_only i s).capacity fun h => ?_
  obtain ⟨-, -, -, hidle, -⟩ := h.contracts.entries i
  exact heldTotal_of_update (fun j => freeEntry_entry i j s) (hidle (by rw [hs]; rfl)).symm

theorem retireNamed_settles (i : Idx) (s : State) : Settles s (retireNamed i s) := by
  unfold retireNamed
  split
  next => exact .refl s
  next hst => exact (retireWith_decides (by rw [hst]; rfl) fun _ => rfl).keeps.judged
  next hst => exact retireWith_settles (by rw [hst]; rfl) fun _ => rfl
  next hst => exact retireWith_settles (by rw [hst]; rfl) fun _ => rfl
  next hst => exact revokeEntry_settles (by rw [hst]; rfl)
  next hst => exact revokeEntry_settles (by rw [hst]; rfl)
  next hst => exact revokeEntry_settles (by rw [hst]; rfl)
  next hst => exact hostCause_settles hst
  next hst => exact freeRetired_settles hst

theorem hostRetire_answers (s : State) : Answers s (hostRetire s) := by
  unfold hostRetire
  split
  · exact .of_complete (.refl s) ..
  · split
    · exact .of_complete (.refl s) ..
    · exact .of_complete (retireNamed_settles _ s) ..

theorem hostPurge_answers (s : State) : Answers s (hostPurge s) := .of_complete (purge_settles s) ..

theorem hostBlock_answers (s : State) : Answers s (hostBlock s) := onSlot_answers blockSlot_settles ..

theorem hostUnblock_answers (s : State) : Answers s (hostUnblock s) := onSlot_answers unblockSlot_settles ..

theorem hostClearTrips_answers (s : State) : Answers s (hostClearTrips s) := onSlot_answers clearTripsOf_settles ..

theorem hostLookup_written (s : State) : Written s (hostLookup s) := by
  unfold hostLookup
  split
  · exact registers_written ..
  · exact registers_written ..

/-! ## APPLY (R48, R143, R168) -/

theorem configOk_of_staged {s : State} (h : firstFailing s = none) : ConfigOk { s with active := s.staged } := by
  have hall (x : Item) := (itemFails_iff s x).not.mp (List.find?_eq_none.mp h x (mem_allItems x))
  have hitem (x : Item) : activeItem { s with active := s.staged } x = (s.staged[itemIndex x]).toNat := rfl
  refine ⟨fun x _ => ?_, ?_, ?_⟩
  · have hx := hall x
    rw [hitem]
    omega
  · have ht2 := hall .t2
    rw [hitem, hitem]
    simp only [not_or, not_and, not_le] at ht2
    exact ht2.2.2.1 trivial
  · have ht3 := hall .t3
    rw [hitem, hitem]
    simp only [not_or, not_and, not_le] at ht3
    exact ht3.2.2.2 trivial

/-- Where C is not tied to the band, a new configuration touches nothing else. -/
theorem Sound.of_config {s : State} (h : Sound s) (hc : ConfigOk { s with active := s.staged }) (hoff : s.supply ≠ .operating) :
    Sound { s with active := s.staged } where
  contracts := h.contracts.of_same rfl rfl rfl rfl rfl rfl rfl rfl
  config := hc
  supply := h.supply
  capacity := ⟨h.capacity.1, h.capacity.2.1, fun hop => absurd hop hoff⟩
  covered := h.covered
  supplied n := ⟨(h.supplied n).powered, (h.supplied n).suspended⟩
  clocks := ⟨h.clocks.qual, h.clocks.hold, h.clocks.stall, h.clocks.lastOn⟩
  ports := h.ports

/-- In OPERATING the new configuration brings a new C (R48). -/
theorem recomputed_sound {s : State} {b : Band} (h : Sound s) (hc : ConfigOk { s with active := s.staged })
    (hop : s.supply = .operating) (hq : s.qualified = some b) :
    Sound (recompute (operatingCapacity { s with active := s.staged } b) { s with active := s.staged }) := by
  have hcontracts : Contracts { s with active := s.staged } := h.contracts.of_same rfl rfl rfl rfl rfl rfl rfl rfl
  have hclocks : ClocksOk { s with active := s.staged } := ⟨h.clocks.qual, h.clocks.hold, h.clocks.stall, h.clocks.lastOn⟩
  have hsupply : SupplyOk { s with active := s.staged } := h.supply
  have hports : PortsOk { s with active := s.staged } := h.ports
  have hsupplied (n : Slot) : SlotSupplied { s with active := s.staged } n :=
    ⟨(h.supplied n).powered, (h.supplied n).suspended⟩
  have hop' : State.supply { s with active := s.staged } = .operating := hop
  have hq' : State.qualified { s with active := s.staged } = some b := hq
  generalize { s with active := s.staged } = u at *
  have hdecides := recompute_decides (operatingCapacity u b) hcontracts.lists
  have honly := recompute_only (operatingCapacity u b) u
  refine .of_decisions honly.decisions
    (hdecides.contracts (hcontracts.of_same rfl rfl rfl rfl rfl rfl rfl rfl)) hc hsupply ?_
    (recompute_covered _ hcontracts.entries hcontracts.lists)
    (fun n => .of_rec honly.supply (hdecides.recs n) ⟨(hsupplied n).powered, (hsupplied n).suspended⟩)
    ⟨hclocks.qual, hclocks.hold, hclocks.stall, hclocks.lastOn⟩ hports
  refine capacityOk_operating (hc.of_active honly.active) (honly.supply.trans hop') (honly.qualified.trans hq') ?_
  rw [operatingCapacity_of_active honly.active]
  exact honly.capacity

/-- What bringing a checked configuration into force leaves. -/
theorem bringIntoForce_written {s : State} (hcheck : firstFailing s = none) : Written s (bringIntoForce s) := by
  have hc := configOk_of_staged hcheck
  by_cases hop : s.supply = .operating
  case neg =>
    rw [bringIntoForce_unsupplied hop]
    exact ⟨rfl, rfl, rfl, rfl, rfl, rfl, rfl, id, fun _ hs => ⟨hc, hs⟩, fun h => h.of_config hc hop, fun _ => id⟩
  cases hq : s.qualified with
  | none =>
    have hnever (h : SupplyOk s) : False := by
      have hun := h.1.mpr hq
      rw [hop] at hun
      cases hun
    have heq : bringIntoForce s = { s with active := s.staged } := by simp only [bringIntoForce, hop, hq]
    rw [heq]
    exact ⟨rfl, rfl, rfl, rfl, rfl, rfl, rfl, id, fun _ hs => (hnever hs).elim, fun h => (hnever h.supply).elim, fun _ => id⟩
  | some b =>
    rw [bringIntoForce_operating hop hq]
    have honly := recompute_only (operatingCapacity { s with active := s.staged } b) { s with active := s.staged }
    have hjudge := Keeps.judge (recompute (operatingCapacity { s with active := s.staged } b) { s with active := s.staged })
    have hmonitored (hs : SupplyOk s) := hs.of_decisions (t := recompute _ { s with active := s.staged }) honly.decisions
    exact
      { pending := hjudge.undisturbed.pending.trans honly.pending
        now := hjudge.undisturbed.now.trans honly.now
        ties := hjudge.undisturbed.ties.trans honly.ties
        pins := hjudge.undisturbed.pins.trans honly.pins
        wires := hjudge.undisturbed.wires.trans honly.wires
        inReset := hjudge.undisturbed.inReset.trans honly.inReset
        straps := hjudge.undisturbed.straps.trans honly.straps
        lists := fun hl => hjudge.lists ((recompute_decides (s := { s with active := s.staged }) _ hl).lists hl)
        monitored := fun _ hs => ⟨(hc.of_active honly.active).of_active hjudge.undisturbed.active,
          hjudge.supply (hc.of_active honly.active) (hmonitored hs)⟩
        sound := fun h => hjudge.sound (recomputed_sound h hc hop hq)
        flag := fun _ _ => judgeDeficit_flagOk _ }

theorem hostApply_written (s : State) : Written s (hostApply s) := by
  unfold hostApply
  split
  · exact registers_written ..
  · next hcheck => exact (bringIntoForce_written hcheck).trans (registers_written ..)

/-! ## A write frame (R163, R164, R169) -/

theorem Written.ite {p : Prop} [Decidable p] {s t u : State} (h : Written s t) (k : Written s u) :
    Written s (if p then t else u) := by
  split
  · exact h
  · exact k

theorem runCommand_written (code : Byte) (s : State) : Written s (runCommand code s) :=
  .ite (hostLookup_written s) <| .ite (hostFind_answers s).written <| .ite (hostRetire_answers s).written <|
  .ite (hostPurge_answers s).written <| .ite (hostBlock_answers s).written <| .ite (hostUnblock_answers s).written <|
  .ite (hostClearTrips_answers s).written <| .ite (hostApply_written s) <| registers_written ..

theorem clearFlags_written (v : Word) (s : State) : Written s (clearFlags v s) := registers_written ..

theorem setEvmask_written (v : Word) (s : State) : Written s (setEvmask v s) := registers_written ..

theorem writeRegister_written (r : BitVec 7) (v : Word) (s : State) : Written s (writeRegister r v s) := by
  unfold writeRegister
  split
  · exact registers_written ..
  · exact .ite (registers_written ..) <| .ite (registers_written ..) <| .ite (clearFlags_written v s) <|
      .ite (setEvmask_written v s) <| .ite (runCommand_written _ s) <| .refl s

theorem Written.unlessReset {f : State → State} {s : State} (h : Written s (f s)) : Written s (Machine.unlessReset f s) := by
  rcases unlessReset_cases f s with heq | heq <;> rw [heq]
  · exact h
  · exact .refl s

end Sys2Proof.Machine
end

section
/-! PROOFS. What every command leaves (O4, O53): each row is an event of the part, an answer to the host or a write of the host's
registers. -/

namespace Sys2Proof.Machine

/-- The rows that write a register which no event of the part writes, and DEVICE_RESET. -/
def writesRegisters : Instr → Bool
  | .lookup | .apply | .unknownCommand _ | .eventsWrite _ | .evmaskWrite _ | .registerWrite _ _ | .deviceReset _ => true
  | _ => false

theorem Settles.answers {s t : State} (h : Settles s t) : Answers s t := ⟨t, h, t.cmd, t.result, rfl⟩

theorem Answers.of_unlessReset {f : State → State} {s t : State} (h : Answers s (f s))
    (ht : Host.Outcome.next (Machine.unlessReset f s) = (.next t : Host.Outcome State Fault Refusal)) : Answers s t := by
  obtain rfl := Host.Outcome.next.inj ht
  rcases unlessReset_cases f s with heq | heq <;> rw [heq]
  · exact h
  · exact (Settles.refl s).answers

theorem Written.of_unlessReset {f : State → State} {s t : State} (h : Written s (f s))
    (ht : Host.Outcome.next (Machine.unlessReset f s) = (.next t : Host.Outcome State Fault Refusal)) : Written s t := by
  obtain rfl := Host.Outcome.next.inj ht
  exact h.unlessReset

/-- Every row but the writers of registers is an event of the part or a command that answers the host. -/
theorem exec_answers {c : Instr} {s t : State} (hc : writesRegisters c = false) (h : exec c s = .next t) : Answers s t := by
  have hmessage (n : Slot) (bytes : List Byte) {handler : State → State} (hh : ∀ u, Settles u (handler u)) (e : BusEnd)
      (ht : Host.Outcome.next (writeMessage n bytes handler e s) = (.next t : Host.Outcome State Fault Refusal)) :
      Answers s t := by
    obtain rfl := Host.Outcome.next.inj ht
    exact (writeMessage_settles n bytes hh e s).answers
  cases c
  case claim n body e => exact hmessage n _ (handleKind_settles .claim n _) e h
  case confirm n body e => exact hmessage n _ (handleKind_settles .confirm n _) e h
  case adjust n body e => exact hmessage n _ (handleKind_settles .adjust n _) e h
  case comply n body e => exact hmessage n _ (handleKind_settles .comply n _) e h
  case renew n body e => exact hmessage n _ (handleKind_settles .renew n _) e h
  case release n body e => exact hmessage n _ (handleKind_settles .release n _) e h
  case query n body e => exact hmessage n _ (handleKind_settles .query n _) e h
  case refusedMessage n msg e => exact hmessage n _ (handleMessage_settles n _) e h
  case writeDiscarded n why e =>
    obtain rfl := Host.Outcome.next.inj h
    exact (Settles.unlessReset fun _ => (endTransaction_settles .restart s).trans (enterBus_afterEnd_settles e _)).answers
  case readStaging a =>
    obtain rfl := Host.Outcome.next.inj h
    exact (readStaging_settles a s).answers
  case readEnd acks e =>
    obtain rfl := Host.Outcome.next.inj h
    exact (readEnd_settles acks e s).answers
  case stallTimerExpiry tick =>
    obtain rfl := Host.Outcome.next.inj h
    exact (stall_settles tick s).answers
  case railSample code => exact (railSample_settles code h).answers
  case qualificationTimerExpiry => exact (qualificationTimerExpiry_settles h).answers
  case holdTimerExpiry => exact (holdTimerExpiry_settles h).answers
  case presenceSample n high => exact (presenceSample_settles n high h).answers
  case presenceTimerExpiry n => exact (presenceTimerExpiry_settles n h).answers
  case faultSample n high => exact (faultSample_settles n high h).answers
  case blankingTimerExpiry n => exact (blankingTimerExpiry_settles n h).answers
  case trip n => exact (trip_settles n h).answers
  case cooldownExpiry n => exact (cooldownExpiry_settles n h).answers
  case stableTimerExpiry n => exact (stableTimerExpiry_settles n h).answers
  case turnOn => exact (turnOn_settles h).answers
  case offerWindowExpiry i => exact (offerWindowExpiry_settles i h).answers
  case reduceGraceExpiry i => exact (reduceGraceExpiry_settles i h).answers
  case revokeGraceExpiry i => exact (revokeGraceExpiry_settles i h).answers
  case leaseExpiry i => exact (leaseExpiry_settles i h).answers
  case warningPoint i => exact (warningPoint_settles i h).answers
  case deliveryLimitExpiry i => exact (deliveryLimitExpiry_settles i h).answers
  case find => exact (hostFind_answers s).of_unlessReset h
  case retire => exact (hostRetire_answers s).of_unlessReset h
  case purge => exact (hostPurge_answers s).of_unlessReset h
  case block => exact (hostBlock_answers s).of_unlessReset h
  case unblock => exact (hostUnblock_answers s).of_unlessReset h
  case clearTrips => exact (hostClearTrips_answers s).of_unlessReset h
  all_goals cases hc

/-- Every row but DEVICE_RESET leaves the time, the queues, the pins and the groups of the invariant. -/
theorem exec_written {c : Instr} {s t : State} (hc : ∀ k, c ≠ .deviceReset k) (h : exec c s = .next t) : Written s t := by
  cases hw : writesRegisters c with
  | false => exact (exec_answers hw h).written
  | true =>
    cases c
    case lookup => exact (hostLookup_written s).of_unlessReset h
    case apply => exact (hostApply_written s).of_unlessReset h
    case unknownCommand code => exact (runCommand_written code s).of_unlessReset h
    case eventsWrite v => exact (clearFlags_written v s).of_unlessReset h
    case evmaskWrite v => exact (setEvmask_written v s).of_unlessReset h
    case registerWrite r v => exact (writeRegister_written r v s).of_unlessReset h
    case deviceReset k => exact absurd rfl (hc k)
    all_goals cases hw

/-! ## Every command completes (O4) -/

theorem exec_next (c : Instr) (s : State) : ∃ t, exec c s = .next t := by
  cases c
  case turnOn =>
    by_cases hdue : turnOnDue s = true
    · obtain ⟨-, -, hqueue, -⟩ := (turnOnDue_iff s).mp hdue
      obtain ⟨n, rest, hq⟩ := List.exists_cons_of_ne_nil hqueue
      exact ⟨_, exec_turnOn_due hq hdue⟩
    · exact ⟨_, exec_turnOn_notDue hdue⟩
  case qualificationTimerExpiry =>
    show ∃ t, execQualificationTimerExpiry s = .next t
    unfold execQualificationTimerExpiry
    split <;> exact ⟨_, rfl⟩
  all_goals exact ⟨_, rfl⟩

/-- Settles O4: the rows that leave the queues and the time, and DEVICE_RESET, which leaves the queues. -/
theorem everyCommandCompletes : Obligations.EveryCommandCompletes := by
  intro c s
  obtain ⟨t, ht⟩ := exec_next c s
  by_cases hreset : ∃ k, c = .deviceReset k
  · obtain ⟨k, rfl⟩ := hreset
    obtain rfl := Host.Outcome.next.inj ht
    exact ⟨_, rfl, rfl, rfl, rfl, rfl, fun hne => absurd rfl (hne k)⟩
  · have hw := exec_written (fun k hk => hreset ⟨k, hk⟩) ht
    exact ⟨t, ht, hw.pending, hw.ties, hw.pins, hw.wires, fun _ => ⟨hw.now, hw.inReset⟩⟩

/-! ## Registers (O53) -/

/-- What a row or a change of a pin leaves of the registers that the host writes. -/
structure KeepsRegisters (s t : State) : Prop where
  events : ∀ b : Nat, s.events.getLsbD b = true → t.events.getLsbD b = true
  evmask : t.evmask = s.evmask
  staged : t.staged = s.staged
  arg0 : t.arg0 = s.arg0
  arg1 : t.arg1 = s.arg1
  active : t.active = s.active
  snap : t.snap = s.snap
  straps : t.straps = s.straps

theorem Undisturbed.registers {s t : State} (h : Undisturbed s t) : KeepsRegisters s t :=
  ⟨h.events, h.evmask, h.staged, h.arg0, h.arg1, h.active, h.snap, h.straps⟩

theorem Answers.registers {s t : State} (h : Answers s t) : KeepsRegisters s t := by
  obtain ⟨u, hu, code, result, rfl⟩ := h.act
  obtain ⟨h1, h2, h3, h4, h5, h6, h7, h8⟩ := hu.undisturbed.registers
  exact ⟨h1, h2, h3, h4, h5, h6, h7, h8⟩

/-- What O53 asks of a row. -/
structure KeepsRegistersBut (c : Instr) (s t : State) : Prop where
  events : (∀ v, c ≠ .eventsWrite v) → ∀ b : Nat, s.events.getLsbD b = true → t.events.getLsbD b = true
  evmask : (∀ v, c ≠ .evmaskWrite v) → t.evmask = s.evmask
  written : (∀ r v, c ≠ .registerWrite r v) → t.staged = s.staged ∧ t.arg0 = s.arg0 ∧ t.arg1 = s.arg1
  active : c ≠ .apply → t.active = s.active
  snap : c ≠ .lookup → t.snap = s.snap
  straps : t.straps = s.straps

theorem KeepsRegisters.but {s t : State} (h : KeepsRegisters s t) (c : Instr) : KeepsRegistersBut c s t :=
  ⟨fun _ => h.events, fun _ => h.evmask, fun _ => ⟨h.staged, h.arg0, h.arg1⟩, fun _ => h.active, fun _ => h.snap, h.straps⟩

theorem KeepsRegisters.refl (s : State) : KeepsRegisters s s := (Undisturbed.refl s).registers

theorem KeepsRegistersBut.of_unlessReset {c : Instr} {f : State → State} {s t : State} (h : KeepsRegistersBut c s (f s))
    (ht : Host.Outcome.next (unlessReset f s) = (.next t : Host.Outcome State Fault Refusal)) : KeepsRegistersBut c s t := by
  obtain rfl := Host.Outcome.next.inj ht
  rcases unlessReset_cases f s with heq | heq <;> rw [heq]
  · exact h
  · exact (KeepsRegisters.refl s).but c

theorem hostLookup_registers (s : State) : KeepsRegistersBut .lookup s (hostLookup s) := by
  unfold hostLookup
  split
  · exact ⟨fun _ _ h => h, fun _ => rfl, fun _ => ⟨rfl, rfl, rfl⟩, fun _ => rfl, fun _ => rfl, rfl⟩
  · exact ⟨fun _ _ h => h, fun _ => rfl, fun _ => ⟨rfl, rfl, rfl⟩, fun _ => rfl, fun hne => absurd rfl hne, rfl⟩

/-- But for the set in force itself, APPLY is an event of the part (R168). -/
theorem bringIntoForce_undisturbed (s : State) : Undisturbed { s with active := s.staged } (bringIntoForce s) := by
  unfold bringIntoForce
  dsimp only
  split
  · next b _ _ =>
    have hcapacity : Undisturbed { s with active := s.staged }
        { s with active := s.staged, capacity := operatingCapacity { s with active := s.staged } b } :=
      ⟨rfl, rfl, rfl, rfl, rfl, rfl, rfl, rfl, rfl, rfl, rfl, rfl, rfl, rfl, rfl, rfl, fun _ => id⟩
    exact (hcapacity.trans (.of_only (recompute_only _ { s with active := s.staged }))).trans (judgeDeficit_undisturbed _)
  all_goals exact .refl _

theorem hostApply_registers (s : State) : KeepsRegistersBut .apply s (hostApply s) := by
  unfold hostApply
  split
  · exact ⟨fun _ _ h => h, fun _ => rfl, fun _ => ⟨rfl, rfl, rfl⟩, fun _ => rfl, fun _ => rfl, rfl⟩
  · have h := bringIntoForce_undisturbed s
    exact ⟨fun _ => h.events, fun _ => h.evmask, fun _ => ⟨h.staged, h.arg0, h.arg1⟩, fun hne => absurd rfl hne,
      fun _ => h.snap, h.straps⟩

/-- A register number with no row of its own is one of an argument or of a staged item, or takes nothing (R164). -/
theorem writeRegister_registers {r : BitVec 7} (v : Word) (hr : r ≠ 0x07 ∧ r ≠ 0x08 ∧ r ≠ 0x09) (s : State) :
    KeepsRegistersBut (.registerWrite r v) s (writeRegister r v s) := by
  obtain ⟨hevents, hmask, hcmd⟩ := hr
  have hwriter {t : State} (h1 : t.events = s.events) (h2 : t.evmask = s.evmask) (h3 : t.active = s.active)
      (h4 : t.snap = s.snap) (h5 : t.straps = s.straps) : KeepsRegistersBut (.registerWrite r v) s t :=
    ⟨fun _ _ h => h1 ▸ h, fun _ => h2, fun hne => absurd rfl (hne r v), fun _ => h3, fun _ => h4, h5⟩
  unfold writeRegister
  split
  · exact hwriter rfl rfl rfl rfl rfl
  · split
    · exact hwriter rfl rfl rfl rfl rfl
    · split <;> exact hwriter rfl rfl rfl rfl rfl

theorem exec_registers {c : Instr} {s t : State} (hwell : c.wellFormed = true) (hc : ∀ k, c ≠ .deviceReset k)
    (h : exec c s = .next t) : KeepsRegistersBut c s t := by
  cases hw : writesRegisters c with
  | false => exact (exec_answers hw h).registers.but c
  | true =>
    cases c
    case lookup => exact (hostLookup_registers s).of_unlessReset h
    case apply => exact (hostApply_registers s).of_unlessReset h
    case unknownCommand code =>
      refine .of_unlessReset ?_ h
      rw [runCommand_unknown (of_decide_eq_true hwell)]
      exact ⟨fun _ _ h => h, fun _ => rfl, fun _ => ⟨rfl, rfl, rfl⟩, fun _ => rfl, fun _ => rfl, rfl⟩
    case eventsWrite v =>
      refine .of_unlessReset (f := clearFlags v) ?_ h
      exact ⟨fun hne => absurd rfl (hne v), fun _ => rfl, fun _ => ⟨rfl, rfl, rfl⟩, fun _ => rfl, fun _ => rfl, rfl⟩
    case evmaskWrite v =>
      refine .of_unlessReset (f := setEvmask v) ?_ h
      exact ⟨fun _ _ h => h, fun hne => absurd rfl (hne v), fun _ => ⟨rfl, rfl, rfl⟩, fun _ => rfl, fun _ => rfl, rfl⟩
    case registerWrite r v => exact (writeRegister_registers v (of_decide_eq_true hwell) s).of_unlessReset h
    case deviceReset k => exact absurd rfl (hc k)
    all_goals cases hw

/-- The registers and the answer left in CMD and RESULT. -/
theorem takeWire_registers {w : Wire} {s : State} (hcsn : w ≠ .csn true) (hlow : w ≠ .rstnLow)
    (hhigh : ∀ k, w ≠ .rstnHigh k) :
    KeepsRegisters s (takeWire w s) ∧ (takeWire w s).cmd = s.cmd ∧ (takeWire w s).result = s.result := by
  have hsame (t : State) (pins : Pins) (bus : Bus) (bits : List Bool) (clock : Option Bool) (stallTimer : Option Nat)
      (frame : Frame) (ht : t = { s with pins, bus, bits, clock, stallTimer, frame }) :
      KeepsRegisters s t ∧ t.cmd = s.cmd ∧ t.result = s.result := by
    subst ht
    exact ⟨⟨fun _ => id, rfl, rfl, rfl, rfl, rfl, rfl, rfl⟩, rfl, rfl⟩
  cases hr : s.inReset with
  | true => exact hsame _ _ s.bus s.bits s.clock s.stallTimer s.frame (takeWire_held hr hhigh)
  | false =>
    rw [takeWire_running hr]
    cases w with
    | scl high => exact hsame _ _ _ _ _ _ s.frame (moveScl_eq high s)
    | sda high =>
      have h := (moveSda_settles high s).undisturbed
      exact ⟨⟨h.events, h.evmask, h.staged, h.arg0, h.arg1, h.active, h.snap, h.straps⟩, h.cmd, h.result⟩
    | csn high =>
      cases high with
      | true => exact absurd rfl hcsn
      | false =>
        show KeepsRegisters s (moveCsn false s) ∧ (moveCsn false s).cmd = s.cmd ∧ (moveCsn false s).result = s.result
        unfold moveCsn
        split
        · exact hsame _ s.pins s.bus s.bits s.clock s.stallTimer s.frame rfl
        · exact hsame _ _ s.bus s.bits s.clock s.stallTimer _ rfl
    | sck high => exact hsame _ _ s.bus s.bits s.clock s.stallTimer _ (moveSck_eq high s)
    | sdi high => exact hsame _ _ s.bus s.bits s.clock s.stallTimer s.frame rfl
    | rstnLow => exact absurd rfl hlow
    | rstnHigh k => exact absurd rfl (hhigh k)

/-- Settles O53: the rows by what they write, then the changes of a pin. -/
theorem registersKeepTheirValues : Obligations.RegistersKeepTheirValues := by
  refine ⟨fun c s t hwell hc h => ?row, fun w s hcsn hlow hhigh => ?wire⟩
  case row =>
    have hkept := exec_registers hwell hc h
    exact ⟨hkept.events, hkept.evmask, hkept.written, hkept.active, hkept.snap, hkept.straps⟩
  case wire =>
    obtain ⟨hkept, hcmd, hresult⟩ := takeWire_registers hcsn hlow hhigh (s := s)
    exact ⟨hkept.events, hkept.evmask, hkept.staged, hkept.arg0, hkept.arg1, hkept.active, hkept.snap, hkept.straps, hcmd,
      hresult⟩

end Sys2Proof.Machine
end

section
/-! PROOFS. The groups of the invariant kept by every step (O54 to O60): the pins, the passing of time, device reset, and the step. -/

namespace Sys2Proof.Machine

/-! ## A step out of device reset -/

/-- A step while RSTn is high: each group of the invariant holds after it as before. -/
structure Advances (s t : State) : Prop where
  lists : ListsOk s → ListsOk t
  monitored : ConfigOk s → SupplyOk s → ConfigOk t ∧ SupplyOk t
  inReset : t.inReset = s.inReset
  sound : s.inReset = false → Sound s → Sound t
  flag : s.inReset = false → Sound s → FlagOk s → FlagOk t

theorem Written.advances {s t : State} (h : Written s t) : Advances s t :=
  ⟨h.lists, h.monitored, h.inReset, fun _ => h.sound, fun _ => h.flag⟩

/-- The ports alone have changed. -/
theorem Advances.of_ports {s : State} {bus : Bus} {bits : List Bool} {clock : Option Bool} {stallTimer : Option Nat} {pins : Pins}
    {frame : Frame} (h : s.inReset = false → Sound s → Sound { s with bus, bits, clock, stallTimer, pins, frame }) :
    Advances s { s with bus, bits, clock, stallTimer, pins, frame } :=
  ⟨id, fun hc hs => ⟨hc, hs⟩, rfl, h, fun _ _ => id⟩

theorem Advances.trans {s t u : State} (h : Advances s t) (k : Advances t u) : Advances s u where
  lists := k.lists ∘ h.lists
  monitored hc hs := k.monitored (h.monitored hc hs).1 (h.monitored hc hs).2
  inReset := k.inReset.trans h.inReset
  sound hr hs := k.sound (h.inReset.trans hr) (h.sound hr hs)
  flag hr hs hf := k.flag (h.inReset.trans hr) (h.sound hr hs) (h.flag hr hs hf)

/-! ## Changes of the pins (R118, R163) -/

/-- A change of the pins of the SPI port, and of its frame with them. -/
theorem Sound.of_frame {s : State} (h : Sound s) {pins : Pins} {frame : Frame} (hscl : pins.scl = s.pins.scl)
    (hframe : FrameOk { s with pins, frame }) : Sound { s with pins, frame } := by
  obtain ⟨⟨hbuffer, hquiet, hbits, hwindow, hclock, hstall⟩, -⟩ := (portsOk_iff s).mp h.ports
  refine h.of_ports ((portsOk_iff _).mpr ⟨⟨hbuffer, hquiet, hbits, hwindow, ?_, ?_⟩, hframe⟩) h.clocks.stall
  · dsimp only
    rw [hscl]
    exact hclock
  · dsimp only
    rw [hscl]
    exact hstall

theorem moveScl_advances (high : Bool) (s : State) : Advances s (moveScl high s) := by
  have hsound (h : Sound s) := moveScl_sound h high
  obtain ⟨pins, bus, bits, clock, stallTimer, heq⟩ := moveScl_state high s
  rw [heq] at hsound ⊢
  exact .of_ports fun _ => hsound

theorem moveSda_advances (high : Bool) (s : State) : Advances s (moveSda high s) := by
  have hpin : Advances s { s with pins := { s.pins with sda := high } } := .of_ports fun _ h => h.of_pins rfl rfl
  exact hpin.trans (moveSda_settles high s).written.advances

/-- A bit sampled leaves a frame open or closed as it was, and the command byte incomplete while it is being sampled (R163). -/
theorem frameAfterSck_ok {s : State} (h : FrameOk s) (high : Bool) :
    (frameAfterSck high s = .closed ↔ s.frame = .closed) ∧ ∀ bits, frameAfterSck high s = .command bits → bits.length < 8 := by
  obtain ⟨-, hshort⟩ := h
  unfold frameAfterSck sampleSdi
  cases hf : s.frame <;> cases high <;> simp_all
  split <;> simp_all

theorem moveSck_advances (high : Bool) (s : State) : Advances s (moveSck high s) := by
  unfold moveSck
  split
  · exact (Written.refl s).advances
  · refine .of_ports fun _ h => h.of_frame rfl ?_
    have hframe := ((portsOk_iff s).mp h.ports).2
    obtain ⟨hclosed, hshort⟩ := frameAfterSck_ok hframe high
    exact ⟨hclosed.trans hframe.1, hshort⟩

theorem endFrame_written (f : Frame) (s : State) : Written s (endFrame f s) := by
  rcases endFrame_cases f s with ⟨r, v, heq⟩ | heq <;> rw [heq]
  · exact writeRegister_written r v s
  · exact .refl s

theorem moveCsn_advances (high : Bool) (s : State) : Advances s (moveCsn high s) := by
  unfold moveCsn
  split
  · exact (Written.refl s).advances
  split
  · have hpin : Advances s { s with pins := { s.pins with csn := true }, frame := .closed } :=
      .of_ports fun _ h => h.of_frame rfl ⟨by simp, by simp⟩
    exact hpin.trans (endFrame_written s.frame _).advances
  · exact .of_ports fun hr h => h.of_frame rfl ⟨by simp [hr], by simp⟩

/-! ## Time passes (R1) -/

/-- No event of the part's own timers is due, and no turn-on. -/
structure NothingDue (s : State) : Prop where
  qual : s.candidate.isSome = true → due s s.qualTimer = false
  hold : s.supply = .hold → due s s.holdTimer = false
  stall : ∀ x, s.stallTimer = some x → stallDue s x = false
  presence : ∀ n, due s (s.slotRec n).presence = false
  blanking : ∀ n, due s (s.slotRec n).blanking = false
  fault : ∀ n, (s.slotRec n).state = .on → due s (s.slotRec n).fault = false
  cooldown : ∀ n, (s.slotRec n).state = .tripped → due s (s.slotRec n).cooldown = false
  stable : ∀ n, due s (s.slotRec n).stable = false
  deadline : ∀ i, (s.entry i).state = .offered ∨ (s.entry i).state = .reducing ∨ (s.entry i).state = .revoking
    ∨ (s.entry i).state = .retired → due s (s.entry i).deadline = false
  lease : ∀ i, leaseDue s i = false
  warning : ∀ i, warningDue s i = false

theorem eventIf_nil {p : Bool} {c : Instr} : eventIf p c = [] ↔ p = false := by cases p <;> simp [eventIf]

theorem nothingDue {s : State} (h : eventsDue s = []) : NothingDue s := by
  simp only [eventsDue, List.append_eq_nil_iff, eventIf_nil, List.flatMap_eq_nil_iff, slotEventsDue, entryEventsDue,
    List.map_eq_nil_iff, List.filter_eq_nil_iff] at h
  obtain ⟨⟨⟨⟨⟨hqual, hhold⟩, hstall⟩, hslots⟩, hentries⟩, -⟩ := h
  have hslot (n : Slot) := hslots n (mem_allSlots n)
  have hentry (i : Idx) := hentries i (mem_allIdx i)
  refine
    { qual := fun hc => by simpa [hc] using hqual
      hold := fun hs => by simpa [holdDue, hs] using hhold
      stall := fun x hx => by simpa using hstall x (by simp [hx])
      presence := fun n => (hslot n).1.1.1.1
      blanking := fun n => (hslot n).1.1.1.2
      fault := fun n hst => by simpa [tripDue, hst] using (hslot n).1.1.2
      cooldown := fun n hst => by simpa [cooldownDue, hst] using (hslot n).1.2
      stable := fun n => (hslot n).2
      deadline := fun i hst => ?_
      lease := fun i => (hentry i).1.2
      warning := fun i => (hentry i).2 }
  obtain ⟨⟨⟨⟨⟨hoffered, hreducing⟩, hrevoking⟩, hretired⟩, -⟩, -⟩ := hentry i
  rcases hst with hst | hst | hst | hst
  · simpa [deadlineDue, hst] using hoffered
  · simpa [deadlineDue, hst] using hreducing
  · simpa [deadlineDue, hst] using hrevoking
  · simpa [deadlineDue, hst] using hretired

/-- A timer that is not due is ahead of the next instant too. -/
theorem ahead_next {s : State} {t : Option Nat} (h : due s t = false) : Ahead { s with now := s.now + 1 } t := by
  rintro x hx
  have hx : t = some x := hx
  subst hx
  have hlt : ticks s < x := by simpa [due] using h
  unfold ticks at hlt
  show s.now + 1 ≤ 2 * x
  omega

theorem ahead_next_of {s : State} {t : Option Nat} (h : t.isSome = true → due s t = false) :
    Ahead { s with now := s.now + 1 } t := by
  cases t with
  | none => exact ahead_none _
  | some x => exact ahead_next (h rfl)

theorem entryAhead_next {s : State} {i : Idx} (h : NothingDue s) (he : EntryOk (s.entry i)) :
    EntryAhead { s with now := s.now + 1 } (s.entry i) := by
  have hlease := mt (leaseDue_iff he).mpr (by simp [h.lease i])
  have hwarning := mt (warningDue_iff he).mpr (by simp [h.warning i])
  simp only [not_exists, not_and, not_le, ticks] at hlease hwarning
  obtain ⟨-, -, -, -, -, -, -, -, -, hdeadline, -⟩ := he
  refine ⟨ahead_next_of fun hd => h.deadline i (hdeadline.mp hd), fun p hp => ⟨?_, fun hw hpoint => ?_⟩⟩
  · have hlt := hlease p hp
    show s.now + 1 ≤ _
    omega
  · have hlt := hwarning p hp hw hpoint
    show s.now + 1 ≤ _
    omega

theorem recAhead_next {s : State} {n : Slot} (h : NothingDue s) (hs : SlotCore s n) :
    RecAhead { s with now := s.now + 1 } (s.slotRec n) :=
  ⟨ahead_next (h.presence n), ahead_next (h.blanking n),
    ahead_next_of fun hf => h.fault n (hs.timed (.inr (.inl hf))), ahead_next (h.stable n),
    ahead_next_of fun hc => h.cooldown n (hs.cooling.mp hc)⟩

/-- The next instant comes only when no timer would be overdue at it. -/
theorem nextInstant_sound {s : State} (hdue : eventsDue s = []) (h : Sound s) : Sound { s with now := s.now + 1 } := by
  have hnothing := nothingDue hdue
  have hcontracts := h.contracts
  obtain ⟨-, -, hhold, hcandidate, -⟩ := h.supply
  obtain ⟨⟨-, -, -, -, -, hstall⟩, -⟩ := (portsOk_iff s).mp h.ports
  exact
    { contracts :=
        { entries := hcontracts.entries
          ahead := fun i => entryAhead_next hnothing (hcontracts.entries i)
          lists := hcontracts.lists
          limits := hcontracts.limits
          notices := hcontracts.notices.of_same rfl rfl rfl
          slots := SlotsCore.of_keepsNeed (s := s) rfl rfl (fun _ => .refl _) hcontracts.slots
          slotsAhead := fun n => recAhead_next hnothing (hcontracts.slots.slot n) }
      config := h.config
      supply := h.supply
      capacity := h.capacity
      covered := h.covered
      supplied := fun n => ⟨(h.supplied n).powered, (h.supplied n).suspended⟩
      clocks :=
        { qual := ahead_next_of fun ht => hnothing.qual (hcandidate.mpr ht)
          hold := ahead_next_of fun ht => hnothing.hold (hhold.mp ht)
          stall := ahead_next_of fun ht => by
            obtain ⟨x, hx⟩ := Option.isSome_iff_exists.mp ht
            have hpart := (hstall.mp ht).1
            have hno := hnothing.stall x hx
            rw [stallDue, hpart, hx] at hno
            rw [hx]
            simpa using hno
          lastOn := fun x hx => (h.clocks.lastOn x hx).trans (Nat.le_succ _) }
      ports := h.ports }

/-- The commands and pin changes that wait, and the counter of free choices, are no part of what must be sound. -/
theorem Sound.of_queues {s : State} (h : Sound s) (pending : List Instr) (ties : Nat) (wires : List Wire) :
    Sound { s with pending := pending, ties := ties, wires := wires } where
  contracts := h.contracts.of_same rfl rfl rfl rfl rfl rfl rfl rfl
  config := h.config
  supply := h.supply
  capacity := h.capacity
  covered := h.covered
  supplied n := ⟨(h.supplied n).powered, (h.supplied n).suspended⟩
  clocks := ⟨h.clocks.qual, h.clocks.hold, h.clocks.stall, h.clocks.lastOn⟩
  ports := h.ports

theorem passTime_advances (s : State) : Advances s (passTime s) := by
  unfold passTime
  split
  · next hdue => exact ⟨id, fun hc hs => ⟨hc, hs⟩, rfl, fun _ => nextInstant_sound hdue, fun _ _ => id⟩
  · exact ⟨id, fun hc hs => ⟨hc, hs⟩, rfl, fun _ h => h.of_queues _ _ _, fun _ _ => id⟩

/-! ## Device reset -/

/-- Device reset has been entered or left, or RSTn is held low, and nothing but the ports' pins and the queues differs from the
reset state (R22, R177). -/
structure ResetTo (k : BitVec 3) (t : State) : Prop where
  blocks : BlocksReset k t
  frame : FrameOk t
  closed : t.inReset = true → t.frame = .closed

theorem ResetTo.inv {k : BitVec 3} {t : State} (h : ResetTo k t) : Inv t := h.blocks.inv h.frame h.closed

theorem endReset_resetTo (k : BitVec 3) (s : State) : ResetTo k (endReset k s) := by
  refine ⟨endReset_blocks k s, ⟨?_, fun bits hf => ?_⟩, fun hr => by cases hr⟩
  · show (if s.pins.csn then Frame.closed else .missed 0) = .closed ↔ s.pins.csn = true ∨ false = true
    cases s.pins.csn <;> simp
  · have hf : (if s.pins.csn then Frame.closed else .missed 0) = .command bits := hf
    split at hf <;> cases hf

theorem beginReset_resetTo (s : State) : ResetTo s.straps (beginReset s) :=
  ⟨⟨rfl⟩, ⟨iff_of_true rfl (.inr rfl), fun bits hf => by cases hf⟩, fun _ => rfl⟩

/-- While RSTn is held low the pins, the queues and the time alone move on. -/
theorem ResetTo.of_held {s t : State} (hr : s.inReset = true) (hs : ResetOk s)
    (ht : t = { s with pending := t.pending, now := t.now, ties := t.ties, pins := t.pins, wires := t.wires }) :
    ResetTo s.straps t := by
  have hclosed : s.frame = .closed := by rw [hs hr]; rfl
  have hframe : t.frame = .closed := by rw [ht]; exact hclosed
  have hreset : t.inReset = true := by rw [ht]; exact hr
  refine ⟨⟨?_⟩, ⟨iff_of_true hframe (.inr hreset), fun bits hf => ?_⟩, fun _ => hframe⟩
  · have hequal := congrArg (fun u : State =>
      { u with pending := t.pending, now := t.now, ties := t.ties, pins := t.pins, wires := t.wires }) (hs.blocks hr).eq
    exact ht.trans (hequal.trans (by rw [hframe, hreset, ← hclosed, ← hr]))
  · rw [hframe] at hf
    cases hf

/-! ## The step -/

/-- Out of device reset a change of a pin advances the state, but for the fall of RSTn. -/
theorem takeWireRunning_cases (w : Wire) (s : State) :
    Advances s (takeWireRunning w s) ∨ ∃ k, ResetTo k (takeWireRunning w s) := by
  cases w with
  | scl high => exact .inl (moveScl_advances high s)
  | sda high => exact .inl (moveSda_advances high s)
  | csn high => exact .inl (moveCsn_advances high s)
  | sck high => exact .inl (moveSck_advances high s)
  | sdi high => exact .inl (.of_ports fun _ h => h.of_pins rfl rfl)
  | rstnLow => exact .inr ⟨_, beginReset_resetTo s⟩
  | rstnHigh k => exact .inl (Written.refl s).advances

theorem takeWireInReset_cases (w : Wire) {s : State} (hr : s.inReset = true) :
    Advances s (takeWireInReset w s) ∨ ∃ k, ResetTo k (takeWireInReset w s) := by
  have hpins (pins : Pins) : Advances s { s with pins := pins } :=
    .of_ports fun hrun => by rw [hr] at hrun; cases hrun
  cases w with
  | rstnHigh k => exact .inr ⟨k, endReset_resetTo k s⟩
  | _ => exact .inl (hpins _)

theorem takeWire_cases (w : Wire) (s : State) : Advances s (takeWire w s) ∨ ∃ k, ResetTo k (takeWire w s) := by
  unfold takeWire
  split
  · next hr => exact takeWireInReset_cases w hr
  · exact takeWireRunning_cases w s

theorem advances_queues (s : State) (pending : List Instr) (ties : Nat) (wires : List Wire) :
    Advances s { s with pending := pending, ties := ties, wires := wires } :=
  ⟨id, fun hc hs => ⟨hc, hs⟩, rfl, fun _ h => h.of_queues _ _ _, fun _ _ => id⟩

/-- A step keeps each group of the invariant, or leaves every block in its reset state. -/
theorem step_cases {s t : State} (h : step s = .next t) : Advances s t ∨ ∃ k, ResetTo k t := by
  unfold step at h
  split at h
  · obtain rfl := Host.Outcome.next.inj h
    unfold idle
    split
    · exact .inl (passTime_advances s)
    · next w rest _ =>
      exact (takeWire_cases w { s with wires := rest }).imp_left (advances_queues s s.pending s.ties rest).trans
  · next c rest _ =>
    by_cases hreset : ∃ k, c = .deviceReset k
    · obtain ⟨k, rfl⟩ := hreset
      obtain rfl := Host.Outcome.next.inj h
      exact .inr ⟨k, endReset_resetTo k _⟩
    · have hw := exec_written (fun k hk => hreset ⟨k, hk⟩) h
      exact .inl ((advances_queues s rest s.ties s.wires).trans hw.advances)

/-- While RSTn is held low a step leaves every block in its reset state. -/
theorem step_held {s t : State} (hr : s.inReset = true) (hs : ResetOk s) (h : step s = .next t) : ∃ k, ResetTo k t := by
  unfold step at h
  split at h
  · obtain rfl := Host.Outcome.next.inj h
    unfold idle
    split
    · unfold passTime
      rw [eventsDue_held hr hs]
      exact ⟨_, .of_held hr hs rfl⟩
    · next w rest _ =>
      have hr' : State.inReset { s with wires := rest } = true := hr
      rw [takeWire, if_pos hr']
      cases w with
      | rstnHigh k => exact ⟨k, endReset_resetTo k _⟩
      | _ => exact ⟨_, .of_held hr hs rfl⟩
  · next c rest _ =>
    by_cases hreset : ∃ k, c = .deviceReset k
    · obtain ⟨k, rfl⟩ := hreset
      obtain rfl := Host.Outcome.next.inj h
      exact ⟨k, endReset_resetTo k _⟩
    · have hr' : State.inReset { s with pending := rest } = true := hr
      have hs' : ResetOk { s with pending := rest } := fun _ =>
        congrArg (fun u : State => { u with pending := rest }) (hs hr)
      obtain rfl := Host.Outcome.next.inj ((exec_held hr' hs' fun k hk => hreset ⟨k, hk⟩).symm.trans h)
      exact ⟨_, .of_held hr hs rfl⟩

/-- The invariant is kept by every step. -/
theorem inv_step {s t : State} (hs : Inv s) (h : step s = .next t) : Inv t := by
  cases hr : s.inReset with
  | true =>
    obtain ⟨k, hk⟩ := step_held hr hs.reset h
    exact hk.inv
  | false =>
    rcases step_cases h with hadv | ⟨k, hk⟩
    · refine (hadv.sound hr hs.sound).inv (hadv.flag hr hs.sound hs.budget.2) fun hreset => ?_
      rw [hadv.inReset, hr] at hreset
      cases hreset
    · exact hk.inv

/-! ## The statements -/

/-- Settles O54: a step keeps both groups, or every block is in its reset state. -/
theorem configAndSupplyAreKept : Obligations.ConfigAndSupplyAreKept := by
  intro s t hc hs h
  rcases step_cases h with hadv | ⟨k, hk⟩
  · exact hadv.monitored hc hs
  · exact ⟨hk.inv.config, hk.inv.supply⟩

/-- Settles O55: a step keeps the lists by themselves, or every block is in its reset state. -/
theorem listsAreKept : Obligations.ListsAreKept := by
  intro s t hl h
  rcases step_cases h with hadv | ⟨k, hk⟩
  · exact hadv.lists hl
  · exact hk.inv.lists

/-- Settles O56: a part of the invariant, which every step keeps. -/
theorem entriesAreKept : Obligations.EntriesAreKept := fun _ _ hs h => ⟨(inv_step hs h).entries, (inv_step hs h).limits⟩

/-- Settles O57: a part of the invariant, which every step keeps. -/
theorem budgetIsKept : Obligations.BudgetIsKept := fun _ _ hs h => ⟨(inv_step hs h).budget, (inv_step hs h).capacity⟩

/-- Settles O58: a part of the invariant, and of it that a switch is on exactly in ON. -/
theorem slotsAreKept : Obligations.SlotsAreKept := by
  intro s t hs h
  have hslots := (inv_step hs h).slots
  exact ⟨hslots, fun n => (((slotsOk_iff t).mp hslots).1.slot n).switch⟩

/-- Settles O59: a part of the invariant, which every step keeps. -/
theorem noticesAreKept : Obligations.NoticesAreKept := fun _ _ hs h => (inv_step hs h).notices

/-- Settles O60: a part of the invariant, which every step keeps. -/
theorem timersAreKept : Obligations.TimersAreKept := fun _ _ hs h =>
  ⟨(inv_step hs h).timers, (inv_step hs h).ports, (inv_step hs h).reset⟩

end Sys2Proof.Machine
end

section
/-! PROOFS. The loss of the supply (chapter 8; O24): what the entry to LOST does to the entries, the lists, the slots and the
outboxes. -/

namespace Sys2Proof.Machine

/-! ## Several entries of several slots -/

/-- The retirement of an entry leaves the record of every slot that is not powered. -/
theorem retireWith_slotRec_unpowered {c : Option Cause} {i : Idx} {s : State} {n : Slot} (h : Unpowered (s.slotRec n).state) :
    (retireWith c i s).slotRec n = s.slotRec n := by
  obtain ⟨hon, hqueued, hsuspended⟩ := h
  by_cases hn : n = (s.entry i).slot
  · subst hn
    exact slotRec_of_slots (retireWith_slots s hon hqueued hsuspended).1 _
  · exact retireWith_slotRec_ne s hn

theorem retireAll_slotRec_unpowered (c : Cause) (l : List Idx) {s : State} {n : Slot} (h : Unpowered (s.slotRec n).state) :
    (retireAll c l s).slotRec n = s.slotRec n := by
  induction l generalizing s with
  | nil => rfl
  | cons i l ih =>
    have hrec : (retireEntry c i s).slotRec n = s.slotRec n := retireWith_slotRec_unpowered h
    rw [retireAll_cons, ih (hrec ▸ h), hrec]

/-- What a retirement leaves of every entry. -/
theorem retireEntry_same (c : Cause) (i : Idx) (s : State) (j : Idx) : ((retireEntry c i s).entry j).slot = (s.entry j).slot
    ∧ ((retireEntry c i s).entry j).gen = (s.entry j).gen ∧ ((retireEntry c i s).entry j).tag = (s.entry j).tag := by
  have hentry : (retireEntry c i s).entry j = _ := retireWith_entry (some c) i j s
  rw [hentry]
  split
  · next hj => subst hj; exact ⟨rfl, rfl, rfl⟩
  · exact ⟨rfl, rfl, rfl⟩

/-- The CLOSED notices of the entries of a list, one of each in the order of the list, for the slot they belong to. -/
structure ClosedFor (s : State) (n : Slot) (l : List Idx) (closed : List Notice) : Prop where
  indices : closed.map Notice.index = l.filter fun i => (s.entry i).slot == n
  each : ∀ x ∈ closed, x.kind = .closed ∧ x.level = 0 ∧ x.gen = (s.entry x.index).gen ∧ x.tag = (s.entry x.index).tag

/-- The CLOSED notice of an entry retired now. -/
def closedNotice (i : Idx) (s : State) : Notice :=
  { id := s.nextItem, kind := .closed, index := i, gen := (s.entry i).gen, tag := (s.entry i).tag, level := 0 }

/-- Each entry retired has its CLOSED notice in place of any other, at the tail of its slot's queue in the order of the list. -/
theorem retireAll_outbox_each (c : Cause) (n : Slot) {l : List Idx} (hl : l.Nodup) (s : State) :
    ((retireAll c l s).outbox n).reply = (s.outbox n).reply
    ∧ ∃ closed, ((retireAll c l s).outbox n).notices
        = (s.outbox n).notices.filter (fun x => !(l.contains x.index && (s.entry x.index).slot == n)) ++ closed
      ∧ ClosedFor s n l closed := by
  induction l generalizing s with
  | nil => exact ⟨rfl, [], by simp [retireAll_nil], rfl, fun x hx => absurd hx List.not_mem_nil⟩
  | cons i l ih =>
    obtain ⟨hi, hl⟩ := List.nodup_cons.mp hl
    obtain ⟨hreply, closed, hnotices, hindices, heach⟩ := ih hl (retireEntry c i s)
    have hsame := retireEntry_same c i s
    simp only [hsame] at hnotices hindices heach
    have hbox : (retireEntry c i s).outbox n = _ := retireWith_outbox (some c) i s n
    rw [retireAll_cons]
    by_cases hn : n = (s.entry i).slot
    · rw [if_pos hn] at hbox
      rw [hbox] at hreply hnotices
      refine ⟨hreply, closedNotice i s :: closed, hnotices.trans ?_, ?_, fun x hx => ?_⟩
      · rw [List.filter_append, List.filter_filter, List.append_assoc]
        congr 1
        · refine List.filter_congr fun x _ => ?_
          by_cases hx : x.index = i <;> simp [hx, hn]
        · simp [hi, closedNotice]
      · simp [hindices, hn, closedNotice]
      · rcases List.mem_cons.mp hx with rfl | hx
        · exact ⟨rfl, rfl, rfl, rfl⟩
        · exact heach x hx
    · rw [if_neg hn] at hbox
      rw [hbox] at hreply hnotices
      have hne : (s.entry i).slot ≠ n := fun h => hn h.symm
      refine ⟨hreply, closed, hnotices.trans ?_, ?_, heach⟩
      · congr 1
        refine List.filter_congr fun x _ => ?_
        by_cases hx : x.index = i <;> simp [hx, hne]
      · simp [hindices, hne]

/-! ## Flags -/

theorem flagSet_raise (e : Event) (s : State) : flagSet (raise e s) e = true := by
  show (s.events ||| eventMask e).getLsbD (eventBit e) = true
  rw [BitVec.getLsbD_or, show (eventMask e).getLsbD (eventBit e) = true by cases e <;> rfl, Bool.or_true]

theorem flagSet_of_undisturbed {s t : State} (h : Undisturbed s t) {e : Event} (hs : flagSet s e = true) :
    flagSet t e = true := h.events _ hs

/-- A deficit that is over is told (R54). -/
theorem judgeDeficit_ends {s : State} (h : heldTotal s ≤ s.capacity) (hd : s.deficit = true) :
    judgeDeficit s = raise .deficitEnd { s with deficit := false } := by
  rw [judgeDeficit, if_neg (Nat.not_lt.mpr h), if_pos hd]

/-! ## The entry to LOST (R140) -/

section
variable {s v : State}

/-- The Wait Queue stays and the Admission Order is empty. -/
theorem supplyRetired_lists (h : ListsOk v) :
    (supplyRetired v).waitQueue = v.waitQueue ∧ (supplyRetired v).admission = [] := by
  obtain ⟨-, -, hwait, hadm, -⟩ := h
  rw [supplyRetired, retireAll_waitQueue, retireAll_admission]
  simp only [contains_entriesWhere]
  refine ⟨List.filter_eq_self.mpr fun i hi => ?_, List.filter_eq_nil_iff.mpr fun i hi => ?_⟩
  · rw [(hwait i).mp hi]
    rfl
  · simp [(hadm i).mp hi]

theorem supplyRetired_entry (v : State) (i : Idx) : (supplyRetired v).entry i =
    if isAdmitted (v.entry i).state then
      { v.entry i with state := .retired, cause := some .supply, held := 0, target := none, period := none,
                       deadline := some (firstTick v + 1000 * activeItem v .deliv) }
    else v.entry i := by
  simp only [supplyRetired, retireAll_entry _ _ (nodup_entriesWhere _ _), mem_entriesWhere]
  rfl

theorem idleRec_unswitched {r : SlotRec} (hswitch : r.switch = false) (hkey : r.key = none)
    (htimers : r.blanking = none ∧ r.fault = none ∧ r.stable = none) : idleRec r = { r with state := .idle } := by
  obtain ⟨hblanking, hfault, hstable⟩ := htimers
  rw [idleRec, ← hblanking, ← hkey, ← hswitch, hblanking, ← hfault, hfault, ← hstable]

/-- A SUSPENDED slot loses its need and is IDLE; no other slot was powered. -/
theorem supplyRetired_slotRec (h : SlotsCore v) (hoff : ∀ n, (v.slotRec n).state ≠ .on ∧ (v.slotRec n).state ≠ .queued)
    (n : Slot) : (supplyRetired v).slotRec n =
      if (v.slotRec n).state = .suspended then { v.slotRec n with state := .idle } else v.slotRec n := by
  have hdecides := supplyRetired_decides v
  split
  · next hst =>
    have hdark := ((hdecides.slots h).slot n).unpowered_of_noneAdmitted (supplyRetired_noneAdmitted v)
    obtain ⟨hswitch, hblanking, hfault, hstable⟩ := (h.slot n).untimed (by simp [hst])
    have hkey : (v.slotRec n).key = none := Option.not_isSome_iff_eq_none.mp (mt (h.slot n).key.mp (by simp [hst]))
    rcases hdecides.recs n with hrec | hrec
    · rw [hrec] at hdark
      exact absurd hst hdark.2.2
    · rw [hrec, idleRec_unswitched hswitch hkey ⟨hblanking, hfault, hstable⟩]
  · next hst => exact retireAll_slotRec_unpowered _ _ ⟨(hoff n).1, (hoff n).2, hst⟩

theorem supplyRetired_inrush (h : SlotsCore v) : (supplyRetired v).inrush = [] := by
  have hslots := (supplyRetired_decides v).slots h
  refine List.eq_nil_iff_forall_not_mem.mpr fun n hn => ?_
  exact ((hslots.slot n).unpowered_of_noneAdmitted (supplyRetired_noneAdmitted v)).2.1 ((hslots.slot n).inrush.mp hn)

theorem supplyRetired_outbox (h : NoticesOk v) (n : Slot) :
    ((supplyRetired v).outbox n).reply = (v.outbox n).reply
    ∧ ∃ closed, ((supplyRetired v).outbox n).notices
        = (v.outbox n).notices.filter (fun x => !isAdmitted (v.entry x.index).state) ++ closed
      ∧ closed.map Notice.index = allIdx.filter (fun i => isAdmitted (v.entry i).state && (v.entry i).slot == n)
      ∧ ∀ x ∈ closed, x.kind = .closed ∧ x.level = 0 ∧ x.gen = (v.entry x.index).gen ∧ x.tag = (v.entry x.index).tag := by
  obtain ⟨hreply, closed, hnotices, hindices, heach⟩ :=
    retireAll_outbox_each .supply n (nodup_entriesWhere v fun e => isAdmitted e.state) v
  refine ⟨hreply, closed, hnotices.trans ?_, hindices.trans ?_, heach⟩
  · congr 1
    refine List.filter_congr fun x hx => ?_
    rw [contains_entriesWhere, (h.noticeOf hx).1]
    simp
  · rw [entriesWhere, List.filter_filter]
    exact List.filter_congr fun i _ => Bool.and_comm ..

end

/-- The two ways into LOST, from which the slots are unpowered or SUSPENDED (R134, R135). -/
structure LosesSupply (c : Instr) (s : State) (q candidate : Option Band) (timer : Option Nat) (events : BitVec 10) : Prop where
  exec : exec c s = .next (enterLost (qualifiedAs q candidate timer events s))
  band : q = some 0
  qualifies : Qualifies 0 q candidate timer events s
  off : s.supply ≠ .operating
  told : c = .qualificationTimerExpiry → events.getLsbD (eventBit .bandChange) = true

theorem losesSupply {c : Instr} {s : State} (hs : SupplyOk s)
    (h : c = .holdTimerExpiry ∧ s.supply = .hold ∧ due s s.holdTimer = true
      ∨ c = .qualificationTimerExpiry ∧ s.supply = .unqualified ∧ s.candidate = some 0 ∧ due s s.qualTimer = true) :
    ∃ q candidate timer events, LosesSupply c s q candidate timer events := by
  rcases h with ⟨rfl, hhold, hdue⟩ | ⟨rfl, hun, hcandidate, hdue⟩
  · refine ⟨s.qualified, s.candidate, s.qualTimer, s.events, ?_, hs.band_zero (.inl hhold),
      ⟨fun _ => hs.band_zero (.inl hhold), fun hs => hs.2.2.2, fun hc => hc.qual, fun _ => id⟩, by simp [hhold],
      fun h => by cases h⟩
    have hholds : holdDue s = true := by simp [holdDue, hhold, hdue]
    exact congrArg Host.Outcome.next (if_pos hholds)
  · refine ⟨some 0, none, none, (raise .bandChange s).events, ?_, rfl,
      ⟨fun _ => rfl, fun _ => by simp, fun _ => ahead_none s, raise_keeps_flags .bandChange s⟩, by simp [hun],
      fun _ => flagSet_raise .bandChange s⟩
    rw [exec_qualificationTimerExpiry_due hcandidate hdue]
    show Host.Outcome.next (bandQualified 0 (qualifiedAs (some 0) none none (raise .bandChange s).events s)) = _
    have hsame : (qualifiedAs (some 0) none none (raise .bandChange s).events s).supply = .unqualified := hun
    simp only [bandQualified, hsame, if_true]

/-- Settles O24: the retirements of R140 group by group, and the judging of a deficit that nothing held can keep. -/
theorem supplyLoss : Obligations.SupplyLoss := by
  intro c s hinv hcase
  obtain ⟨q, candidate, timer, events, hloses⟩ := losesSupply hinv.supply hcase
  have hs := hinv.sound
  let v := suppliedAs .lost none 0 (qualifiedAs q candidate timer events s)
  have hv : Contracts v := hs.contracts.of_same rfl rfl rfl rfl rfl rfl rfl rfl
  have hoff (n : Slot) : (v.slotRec n).state ≠ .on ∧ (v.slotRec n).state ≠ .queued :=
    ⟨fun h => hloses.off ((hs.supplied n).powered (.inl h)), fun h => hloses.off ((hs.supplied n).powered (.inr h))⟩
  have hdecides := supplyRetired_decides v
  have honly := hdecides.only
  have hzero : heldTotal (supplyRetired v) = 0 :=
    heldTotal_of_noneAdmitted (hdecides.entries hv.entries) (supplyRetired_noneAdmitted v)
  have hpending := pendingTotal_le (supplyRetired v)
  obtain ⟨hwait, hadmission⟩ := supplyRetired_lists hv.lists
  have hjudged := judgeDeficit_undisturbed (raise .supplyChange (supplyRetired v))
  have hafter := (raise_undisturbed .supplyChange (supplyRetired v)).trans hjudged
  have hdecided := (raise_only .supplyChange (supplyRetired v)).trans (judgeDeficit_only _)
  have htable : (judgeDeficit (raise .supplyChange (supplyRetired v))).table = (supplyRetired v).table := judgeDeficit_table _
  refine ⟨judgeDeficit (raise .supplyChange (supplyRetired v)), hloses.exec, hdecided.supply.trans honly.supply,
    hdecided.holdTimer.trans honly.holdTimer, hdecided.qualified.trans (honly.qualified.trans hloses.band),
    hdecided.capacity.trans honly.capacity, ?held, ?pending, ?deficit, ?wait, ?admission, ?inrush, ?supplyFlag, ?bandFlag, ?ends,
    fun i => ?entry, fun n => ?slot, fun n => ?outbox, hdecided.active.trans honly.active, hdecided.staged.trans honly.staged,
    hdecided.evmask.trans honly.evmask, hdecided.lastOn.trans honly.lastOn, hdecided.bus.trans honly.bus⟩
  case held => rw [heldTotal_of_table htable, hzero]
  case pending =>
    rw [pendingTotal_of_table htable]
    omega
  case deficit =>
    rw [judgeDeficit_heldZero (s := raise .supplyChange (supplyRetired v)) hzero]
  case wait => exact (judgeDeficit_waitQueue _).trans hwait
  case admission => exact (judgeDeficit_admission _).trans hadmission
  case inrush => exact (judgeDeficit_inrush _).trans (supplyRetired_inrush hv.slots)
  case supplyFlag => exact flagSet_of_undisturbed hjudged (flagSet_raise .supplyChange _)
  case bandFlag =>
    intro hc
    refine flagSet_of_undisturbed hafter (flagSet_of_undisturbed (.of_only honly) (s := v) (hloses.told hc))
  case ends =>
    intro hd
    rw [judgeDeficit_ends (s := raise .supplyChange (supplyRetired v)) (hzero.le.trans (Nat.zero_le _))
      (honly.deficit.trans hd)]
    exact flagSet_raise .deficitEnd _
  case entry =>
    rw [judgeDeficit_entry]
    exact supplyRetired_entry v i
  case slot =>
    rw [judgeDeficit_slotRec]
    exact supplyRetired_slotRec hv.slots hoff n
  case outbox =>
    rw [judgeDeficit_outbox]
    exact supplyRetired_outbox hv.notices n

end Sys2Proof.Machine
end
